-- ==== Sys2Proof/Word.lean ====
section
/-!
DEFINITION. The two word types of the machine (spec/00_scope.md R9): `u8` and `u16`, both unsigned.
Arithmetic on them is that of `BitVec`, modulo 2^8 and 2^16.
-/

namespace Sys2Proof

/-- `u8`: a register, a byte of a store, an opcode (R9). -/
abbrev Byte := BitVec 8

/-- `u16`: an address, `sp`, `pc`, a register pair (R9). -/
abbrev Word := BitVec 16

end Sys2Proof
end

