-- ==== Sys2Proof/Config.lean ====
section
/-!
DEFINITION. What is fixed for the machine (spec/00_scope.md R7) and the one free value of the spec that no state holds.
The parameters of R8 are arguments: CART_IMAGE of `State.loadImage`, INIT_RAM of `State.powerOn`, STOP_PC and FUEL of `run`.
-/

namespace Sys2Proof.Config

/-- Size in bytes of the graphics store (R7, R32). -/
def vramSize : Nat := 0x2000

/-- Size in bytes of the working store (R7, R32). -/
def wramSize : Nat := 0x2000

/-- Size in bytes of the sprite store (R7, R32). -/
def oamSize : Nat := 0xA0

/-- Size in bytes of the high-speed store (R7, R32). -/
def hramSize : Nat := 0x7F

/-- The header fields that R63 decodes by an "enumerated description". -/
inductive HeaderField where
  | colorSupport
  | legacyPeripheral
  | cartridgeType
  | romSize
  | ramSize
deriving DecidableEq, Repr

/-- The description a header byte is displayed as.
The tables are not in the spec (R63, N8, U9: any value), so this is a FREE VALUE with no body (log entry 7). -/
opaque headerDescription : HeaderField → Byte → String

end Sys2Proof.Config
end

