-- ==== Sys2Proof/Machine/Store.lean ====
section
/-!
DEFINITION. A backing store (spec/10_state.md R32) as plain data: a list of (index, byte) pairs in ONE canonical form,
indices strictly rising and no entry equal to what an unlisted index reads as.
So two stores that read alike are equal lists.
-/

namespace Sys2Proof.Machine

/-- A backing store: the bytes that differ from `unlistedByte`, by rising index. -/
abbrev Store := List Host.Cell

/-- What an index that a store does not list reads as.
For `cart` this only abbreviates the image, which lists every byte of it; for the RAM stores it fixes the
draw INIT_RAM of `State.reset` (DESIGN CHOICE, unsafe: log entry 1). -/
def unlistedByte : Byte := 0x00#8

/-- The byte at an index. -/
def Store.get : Store → Nat → Byte
  | [], _ => unlistedByte
  | (j, w) :: rest, k => if k = j then w else Store.get rest k

/-- `m` with `(k, v)` in front, unless `v` is what an unlisted index reads as. -/
def Store.consCell (k : Nat) (v : Byte) (m : Store) : Store :=
  if v = unlistedByte then m else (k, v) :: m

/-- The store after writing one byte; it keeps the canonical form. -/
def Store.set : Store → Nat → Byte → Store
  | [], k, v => Store.consCell k v []
  | (j, w) :: rest, k, v =>
    if k < j then Store.consCell k v ((j, w) :: rest)
    else if k = j then Store.consCell k v rest
    else (j, w) :: Store.set rest k v

/-- The store whose bytes from index `k` on are those of a list. -/
def Store.ofBytesFrom : Nat → List Byte → Store
  | _, [] => []
  | k, v :: vs => Store.consCell k v (Store.ofBytesFrom (k + 1) vs)

/-- The store with the contents of a byte array. -/
def Store.ofBytes (bytes : List Byte) : Store := Store.ofBytesFrom 0 bytes

/-- The canonical form, for indices from `lo` up to below `size`. -/
def Store.wfFrom (size : Nat) : Nat → Store → Bool
  | _, [] => true
  | lo, (k, v) :: rest =>
    decide (lo ≤ k) && decide (k < size) && decide (v ≠ unlistedByte) && Store.wfFrom size (k + 1) rest

/-- A store of `size` bytes in canonical form. -/
def Store.wf (size : Nat) (m : Store) : Bool := Store.wfFrom size 0 m

end Sys2Proof.Machine
end

