-- ==== Sys2Proof/Machine/State.lean ====
section
/-!
DEFINITION. The complete state of the block (spec/10_state.md R20, R30-R33) as plain data, the errors of
spec/60_exceptions.md R170, and the state at power-on.
-/

namespace Sys2Proof.Machine

/-- The kind an `InvalidAddress` carries (R170). -/
inductive AccessKind where
  | read
  | write
deriving DecidableEq, Repr

/-- The errors of R170, each with what it carries. -/
inductive CoreError where
  /-- A read or write of an unmapped address, or of a cartridge address at or above CART_LEN. -/
  | invalidAddress (addr : Word) (kind : AccessKind)
  /-- A step on an opcode byte that has no row. -/
  | unsupportedOpcode (op : Byte)
  /-- A write into the echo region. -/
  | prohibitedAccess (addr : Word)
  /-- The host's cartridge load failed; never raised by a step, never latched (R61, R170). -/
  | ioFailure
deriving DecidableEq, Repr

/-- The five byte arrays of R32. `cart` has `cartLen` bytes; the others have the sizes of `Config`. -/
structure Memory where
  cart    : Store
  cartLen : Nat
  vram    : Store
  wram    : Store
  oam     : Store
  hram    : Store
deriving DecidableEq, Repr

/-- The complete state of the block (R33). -/
structure State where
  a     : Byte
  f     : Byte
  b     : Byte
  c     : Byte
  d     : Byte
  e     : Byte
  h     : Byte
  l     : Byte
  sp    : Word
  pc    : Word
  fault : Option CoreError   -- the fault latch (R30)
  mem   : Memory
deriving DecidableEq, Repr

/-- Why the machine stops. -/
inductive Fault where
  /-- `step` on a faulted core: it executes nothing and returns the latched error again, until reset (R173).
  Raised by `step` alone. Safe: the spec gives this step no effect. -/
  | latched (e : CoreError)
deriving DecidableEq, Repr

/-- Why an instruction has no meaning. -/
inductive Refusal where
  /-- An arm of `exec` that is not modelled yet, by the mnemonic of its row. Raised by no arm now. Safe. -/
  | notModelled (mnemonic : String)
deriving DecidableEq, Repr

/-- INIT_RAM (R8): the power-on contents of the four RAM stores, an arbitrary draw.
A list shorter than its store leaves the remaining bytes `unlistedByte`; bytes past the store's size are dropped,
so the lists of full length are every draw. -/
structure InitRam where
  vram : List Byte
  wram : List Byte
  oam  : List Byte
  hram : List Byte
deriving DecidableEq, Repr

/-- The state after power-on construction with a draw of INIT_RAM (R33, R190). -/
def State.powerOn (ram : InitRam) : State :=
  { a := 0x01#8, f := 0xB0#8, b := 0x00#8, c := 0x13#8, d := 0x00#8, e := 0xD8#8, h := 0x01#8, l := 0x4D#8
    sp := 0xFFFE#16, pc := 0x0100#16, fault := none
    mem :=
      { cart := [], cartLen := 0
        vram := Store.ofBytes (ram.vram.take Config.vramSize)
        wram := Store.ofBytes (ram.wram.take Config.wramSize)
        oam := Store.ofBytes (ram.oam.take Config.oamSize)
        hram := Store.ofBytes (ram.hram.take Config.hramSize) } }

/-- The machine right after reset, nothing listed in memory: power-on with the draw of INIT_RAM whose bytes are all
`unlistedByte` (DESIGN CHOICE, unsafe: log entry 1; R33 leaves the draw open). -/
def State.reset : State := State.powerOn { vram := [], wram := [], oam := [], hram := [] }

end Sys2Proof.Machine
end

