-- ==== Sys2Proof/Machine/Bus.lean ====
section
/-!
DEFINITION. The memory bus (spec/20_memory.md R40-R52): the router, and the one-byte read and write that every
fetch, load, store and stack access uses.
-/

namespace Sys2Proof.Machine

/-- The five backing stores (R32). -/
inductive StoreId where
  | cart
  | vram
  | wram
  | oam
  | hram
deriving DecidableEq, Repr

/-- What an address reaches (R41). -/
inductive Target where
  /-- A byte of a store, by index. -/
  | cell (id : StoreId) (index : Nat)
  /-- A write into the echo range (R46). -/
  | prohibited
  /-- No store (R47). -/
  | unmapped
deriving DecidableEq, Repr

/-- The region table of R41, for a read or for a write. Only the echo range tells the two apart. -/
def route (kind : AccessKind) (addr : Word) : Target :=
  let n := addr.toNat
  if n < 0x8000 then .cell .cart n
  else if n < 0xA000 then .cell .vram (n - 0x8000)
  else if n < 0xC000 then .cell .cart n
  else if n < 0xE000 then .cell .wram (n - 0xC000)
  else if n < 0xFE00 then
    match kind with
    | .read => .cell .wram (n - 0xE000)
    | .write => .prohibited
  else if n < 0xFEA0 then .cell .oam (n - 0xFE00)
  else if n < 0xFF80 then .unmapped
  else if n < 0xFFFF then .cell .hram (n - 0xFF80)
  else .unmapped

/-- A store by its name. -/
def Memory.store (m : Memory) : StoreId → Store
  | .cart => m.cart
  | .vram => m.vram
  | .wram => m.wram
  | .oam => m.oam
  | .hram => m.hram

/-- The size in bytes of a store (R32). -/
def Memory.size (m : Memory) : StoreId → Nat
  | .cart => m.cartLen
  | .vram => Config.vramSize
  | .wram => Config.wramSize
  | .oam => Config.oamSize
  | .hram => Config.hramSize

/-- The memory with one store replaced. -/
def Memory.setStore (m : Memory) (id : StoreId) (st : Store) : Memory :=
  match id with
  | .cart => { m with cart := st }
  | .vram => { m with vram := st }
  | .wram => { m with wram := st }
  | .oam => { m with oam := st }
  | .hram => { m with hram := st }

/-- `MemRead(addr, 1)` (R50): a read changes nothing. -/
def Memory.read (m : Memory) (addr : Word) : Except CoreError Byte :=
  match route .read addr with
  | .cell id k => if k < m.size id then .ok ((m.store id).get k) else .error (.invalidAddress addr .read)
  | .prohibited => .error (.prohibitedAccess addr)
  | .unmapped => .error (.invalidAddress addr .read)

/-- `MemWrite(addr, 1, v)` (R51): one byte of one store, or an error and no change. -/
def Memory.write (m : Memory) (addr : Word) (v : Byte) : Except CoreError Memory :=
  match route .write addr with
  | .cell id k =>
    if k < m.size id then .ok (m.setStore id ((m.store id).set k v)) else .error (.invalidAddress addr .write)
  | .prohibited => .error (.prohibitedAccess addr)
  | .unmapped => .error (.invalidAddress addr .write)

/-- Every store is in canonical form and within its size. -/
def Memory.wf (m : Memory) : Bool :=
  m.cart.wf m.cartLen && m.vram.wf Config.vramSize && m.wram.wf Config.wramSize && m.oam.wf Config.oamSize
    && m.hram.wf Config.hramSize

end Sys2Proof.Machine
end

