-- ==== Sys2Proof/Machine/Bits.lean ====
section
/-!
DEFINITION. The combine, high-byte and low-byte helpers of spec/00_scope.md R9.
-/

namespace Sys2Proof

/-- `hi8(w) = w[15:8]` (R9). -/
def hi8 (w : Word) : Byte := w.extractLsb' 8 8

/-- `lo8(w) = w[7:0]` (R9). -/
def lo8 (w : Word) : Byte := w.extractLsb' 0 8

/-- `cat16(hi, lo) = (hi << 8) | lo` (R9). -/
def cat16 (hi lo : Byte) : Word := hi ++ lo

end Sys2Proof
end

