-- ==== Sys2Proof/Machine/Flags.lean ====
section
/-!
DEFINITION. The flag byte `f` (spec/10_state.md R21, R22). No instruction computes a flag; the one that writes flags,
POP AF, writes the whole byte through `maskFlags`. The bit numbers are the spec's own choice (log entry 4).
-/

namespace Sys2Proof.Machine

/-- What a write to `f` keeps: the high nibble (R22, R24). -/
def maskFlags (v : Byte) : Byte := v &&& 0xF0#8

/-- Z, bit 7 of `f` (R21). -/
def State.flagZ (s : State) : Bool := s.f.getLsbD 7

/-- N, bit 6 of `f` (R21). -/
def State.flagN (s : State) : Bool := s.f.getLsbD 6

/-- H, bit 5 of `f` (R21). -/
def State.flagH (s : State) : Bool := s.f.getLsbD 5

/-- C, bit 4 of `f` (R21). -/
def State.flagC (s : State) : Bool := s.f.getLsbD 4

end Sys2Proof.Machine
end

