-- ==== Sys2Proof/Machine/Operands.lean ====
section
/-!
DEFINITION. Registers as operands: the 8-bit operands of spec/30_encoding.md R74, the pair views of spec/10_state.md
R23-R25, the port address of R76, and the plain updates of the other fields.
-/

namespace Sys2Proof.Machine

/-- The 8-bit register operands (R74); `f` is none of them. -/
inductive Reg8 where
  | b
  | c
  | d
  | e
  | h
  | l
  | a
deriving DecidableEq, Repr

/-- The 16-bit pair views (R23). -/
inductive Pair where
  | bc
  | de
  | hl
  | af
deriving DecidableEq, Repr

/-- `x[r]` (R10). -/
def State.reg (s : State) : Reg8 → Byte
  | .b => s.b
  | .c => s.c
  | .d => s.d
  | .e => s.e
  | .h => s.h
  | .l => s.l
  | .a => s.a

/-- `x[r] <- v` (R10). -/
def State.setReg (s : State) (r : Reg8) (v : Byte) : State :=
  match r with
  | .b => { s with b := v }
  | .c => { s with c := v }
  | .d => { s with d := v }
  | .e => { s with e := v }
  | .h => { s with h := v }
  | .l => { s with l := v }
  | .a => { s with a := v }

/-- `pair(p)`: the high byte is the first-named register (R23). -/
def State.pair (s : State) : Pair → Word
  | .bc => cat16 s.b s.c
  | .de => cat16 s.d s.e
  | .hl => cat16 s.h s.l
  | .af => cat16 s.a s.f

/-- `setpair(p, v)`: the `af` setter masks the low nibble of `f` (R24). -/
def State.setPair (s : State) (p : Pair) (v : Word) : State :=
  match p with
  | .bc => { s with b := hi8 v, c := lo8 v }
  | .de => { s with d := hi8 v, e := lo8 v }
  | .hl => { s with h := hi8 v, l := lo8 v }
  | .af => { s with a := hi8 v, f := maskFlags (lo8 v) }

/-- `HLinc()`: wraps 0xFFFF to 0x0000 (R25). -/
def State.incHl (s : State) : State := s.setPair .hl (s.pair .hl + 1#16)

/-- `HLdec()`: wraps 0x0000 to 0xFFFF (R25). -/
def State.decHl (s : State) : State := s.setPair .hl (s.pair .hl - 1#16)

/-- `x[sp] <- v`. -/
def State.setSp (s : State) (v : Word) : State := { s with sp := v }

/-- `pc <- v`. -/
def State.setPc (s : State) (v : Word) : State := { s with pc := v }

/-- The state with other stores. -/
def State.setMem (s : State) (m : Memory) : State := { s with mem := m }

/-- `fault <- some(E)` (R172). -/
def State.latch (s : State) (e : CoreError) : State := { s with fault := some e }

/-- The port-style address `cat16(0xFF, v)` (R76). -/
def portAddress (v : Byte) : Word := cat16 0xFF#8 v

end Sys2Proof.Machine
end

