-- ==== Sys2Proof/Machine/Ops.lean ====
section
/-!
DEFINITION. The named operations every meaning is built from: raising an error, the one-byte accesses with what
follows them, and the transfers the instruction families share.
A state passed to a meaning has its instruction's bytes fetched already: `pc` is past them (spec/10_state.md R26).
-/

namespace Sys2Proof.Machine

/-- What an instruction answers. -/
abbrev Result := Host.Outcome State Fault Refusal

/-- `raise E(info)` (spec/60_exceptions.md R172): no later line runs, and the latch is set; the effects of the lines
before remain, since `s` has them (R174). There is no vector, handler or saved register, and no return: only the
host's reset clears the latch (R176, R177). The state after a raise is a NEXT state (log entry 2). -/
def State.raise (s : State) (e : CoreError) : Result := .next (s.latch e)

/-- `v <- MemRead(addr, 1)`, then the lines after it (R50). -/
def State.readThen (s : State) (addr : Word) (k : Byte → Result) : Result :=
  match s.mem.read addr with
  | .ok v => k v
  | .error e => s.raise e

/-- `MemWrite(addr, 1, v)`, then the lines after it (R51). -/
def State.writeThen (s : State) (addr : Word) (v : Byte) (k : State → Result) : Result :=
  match s.mem.write addr v with
  | .ok m => k (s.setMem m)
  | .error e => s.raise e

/-- `x[dst] <- x[src]` (R100). -/
def State.move (s : State) (dst src : Reg8) : Result := .next (s.setReg dst (s.reg src))

/-- `x[dst] <- MemRead(addr, 1)` (R103 and its like). -/
def State.load (s : State) (dst : Reg8) (addr : Word) : Result :=
  s.readThen addr fun v => .next (s.setReg dst v)

/-- `MemWrite(addr, 1, v)` (R104 and its like). -/
def State.store (s : State) (addr : Word) (v : Byte) : Result :=
  s.writeThen addr v fun t => .next t

/-- The two byte writes of a 16-bit store, low byte first, the second address modulo 2^16 (R141). -/
def State.storeWord (s : State) (addr v : Word) : Result :=
  s.writeThen addr (lo8 v) fun t => t.store (addr + 1#16) (hi8 v)

/-- PUSH of a value read before any change: the high byte first, below the old `sp` (R150). -/
def State.push (s : State) (v : Word) : Result :=
  let s1 := s.setSp (s.sp - 1#16)
  s1.writeThen s1.sp (hi8 v) fun t =>
    let t1 := t.setSp (t.sp - 1#16)
    t1.store t1.sp (lo8 v)

/-- POP: the low byte from `sp`, then the high byte; the pair is set last (R151, R152). -/
def State.pop (s : State) (p : Pair) : Result :=
  s.readThen s.sp fun lo =>
    let s1 := s.setSp (s.sp + 1#16)
    s1.readThen s1.sp fun hi =>
      let s2 := s1.setSp (s1.sp + 1#16)
      .next (s2.setPair p (cat16 hi lo))

end Sys2Proof.Machine
end

