-- ==== Sys2Proof/Machine/Loads16.lean ====
section
/-!
DEFINITION. The 16-bit loads (spec/41_loads16.md R140-R142).
-/

namespace Sys2Proof.Machine

/-- `LD BC,n16` (R140). -/
def execLdBcN16 (n : Word) (s : State) : Result := .next (s.setPair .bc n)

/-- `LD DE,n16` (R140). -/
def execLdDeN16 (n : Word) (s : State) : Result := .next (s.setPair .de n)

/-- `LD HL,n16` (R140). -/
def execLdHlN16 (n : Word) (s : State) : Result := .next (s.setPair .hl n)

/-- `LD SP,n16` (R140). -/
def execLdSpN16 (n : Word) (s : State) : Result := .next (s.setSp n)

/-- `LD (a16),SP` (R141). -/
def execLdAtA16Sp (n : Word) (s : State) : Result := s.storeWord n s.sp

/-- `LD SP,HL` (R142). -/
def execLdSpHl (s : State) : Result := .next (s.setSp (s.pair .hl))

end Sys2Proof.Machine
end

