-- ==== Sys2Proof/Machine/Loads8.lean ====
section
/-!
DEFINITION. The 8-bit loads and stores (spec/40_loads8.md R100-R118): no flag changes; an access that raises
leaves the destination as it was.
-/

namespace Sys2Proof.Machine

/-! ### Register to register (R100) -/

/-- `LD B,B` (R100). -/
def execLdBB (s : State) : Result := s.move .b .b

/-- `LD B,C` (R100). -/
def execLdBC (s : State) : Result := s.move .b .c

/-- `LD B,D` (R100). -/
def execLdBD (s : State) : Result := s.move .b .d

/-- `LD B,E` (R100). -/
def execLdBE (s : State) : Result := s.move .b .e

/-- `LD B,H` (R100). -/
def execLdBH (s : State) : Result := s.move .b .h

/-- `LD B,L` (R100). -/
def execLdBL (s : State) : Result := s.move .b .l

/-- `LD B,A` (R100). -/
def execLdBA (s : State) : Result := s.move .b .a

/-- `LD C,B` (R100). -/
def execLdCB (s : State) : Result := s.move .c .b

/-- `LD C,C` (R100). -/
def execLdCC (s : State) : Result := s.move .c .c

/-- `LD C,D` (R100). -/
def execLdCD (s : State) : Result := s.move .c .d

/-- `LD C,E` (R100). -/
def execLdCE (s : State) : Result := s.move .c .e

/-- `LD C,H` (R100). -/
def execLdCH (s : State) : Result := s.move .c .h

/-- `LD C,L` (R100). -/
def execLdCL (s : State) : Result := s.move .c .l

/-- `LD C,A` (R100). -/
def execLdCA (s : State) : Result := s.move .c .a

/-- `LD D,B` (R100). -/
def execLdDB (s : State) : Result := s.move .d .b

/-- `LD D,C` (R100). -/
def execLdDC (s : State) : Result := s.move .d .c

/-- `LD D,D` (R100). -/
def execLdDD (s : State) : Result := s.move .d .d

/-- `LD D,E` (R100). -/
def execLdDE (s : State) : Result := s.move .d .e

/-- `LD D,H` (R100). -/
def execLdDH (s : State) : Result := s.move .d .h

/-- `LD D,L` (R100). -/
def execLdDL (s : State) : Result := s.move .d .l

/-- `LD D,A` (R100). -/
def execLdDA (s : State) : Result := s.move .d .a

/-- `LD E,B` (R100). -/
def execLdEB (s : State) : Result := s.move .e .b

/-- `LD E,C` (R100). -/
def execLdEC (s : State) : Result := s.move .e .c

/-- `LD E,D` (R100). -/
def execLdED (s : State) : Result := s.move .e .d

/-- `LD E,E` (R100). -/
def execLdEE (s : State) : Result := s.move .e .e

/-- `LD E,H` (R100). -/
def execLdEH (s : State) : Result := s.move .e .h

/-- `LD E,L` (R100). -/
def execLdEL (s : State) : Result := s.move .e .l

/-- `LD E,A` (R100). -/
def execLdEA (s : State) : Result := s.move .e .a

/-- `LD H,B` (R100). -/
def execLdHB (s : State) : Result := s.move .h .b

/-- `LD H,C` (R100). -/
def execLdHC (s : State) : Result := s.move .h .c

/-- `LD H,D` (R100). -/
def execLdHD (s : State) : Result := s.move .h .d

/-- `LD H,E` (R100). -/
def execLdHE (s : State) : Result := s.move .h .e

/-- `LD H,H` (R100). -/
def execLdHH (s : State) : Result := s.move .h .h

/-- `LD H,L` (R100). -/
def execLdHL (s : State) : Result := s.move .h .l

/-- `LD H,A` (R100). -/
def execLdHA (s : State) : Result := s.move .h .a

/-- `LD L,B` (R100). -/
def execLdLB (s : State) : Result := s.move .l .b

/-- `LD L,C` (R100). -/
def execLdLC (s : State) : Result := s.move .l .c

/-- `LD L,D` (R100). -/
def execLdLD (s : State) : Result := s.move .l .d

/-- `LD L,E` (R100). -/
def execLdLE (s : State) : Result := s.move .l .e

/-- `LD L,H` (R100). -/
def execLdLH (s : State) : Result := s.move .l .h

/-- `LD L,L` (R100). -/
def execLdLL (s : State) : Result := s.move .l .l

/-- `LD L,A` (R100). -/
def execLdLA (s : State) : Result := s.move .l .a

/-- `LD A,B` (R100). -/
def execLdAB (s : State) : Result := s.move .a .b

/-- `LD A,C` (R100). -/
def execLdAC (s : State) : Result := s.move .a .c

/-- `LD A,D` (R100). -/
def execLdAD (s : State) : Result := s.move .a .d

/-- `LD A,E` (R100). -/
def execLdAE (s : State) : Result := s.move .a .e

/-- `LD A,H` (R100). -/
def execLdAH (s : State) : Result := s.move .a .h

/-- `LD A,L` (R100). -/
def execLdAL (s : State) : Result := s.move .a .l

/-- `LD A,A` (R100). -/
def execLdAA (s : State) : Result := s.move .a .a

/-! ### Immediate to register (R101) -/

/-- `LD B,n8` (R101). -/
def execLdBN8 (n : Byte) (s : State) : Result := .next (s.setReg .b n)

/-- `LD C,n8` (R101). -/
def execLdCN8 (n : Byte) (s : State) : Result := .next (s.setReg .c n)

/-- `LD D,n8` (R101). -/
def execLdDN8 (n : Byte) (s : State) : Result := .next (s.setReg .d n)

/-- `LD E,n8` (R101). -/
def execLdEN8 (n : Byte) (s : State) : Result := .next (s.setReg .e n)

/-- `LD H,n8` (R101). -/
def execLdHN8 (n : Byte) (s : State) : Result := .next (s.setReg .h n)

/-- `LD L,n8` (R101). -/
def execLdLN8 (n : Byte) (s : State) : Result := .next (s.setReg .l n)

/-- `LD A,n8` (R101). -/
def execLdAN8 (n : Byte) (s : State) : Result := .next (s.setReg .a n)

/-! ### Immediate to memory (R102) -/

/-- `LD (HL),n8` (R102). -/
def execLdAtHlN8 (n : Byte) (s : State) : Result := s.store (s.pair .hl) n

/-! ### Register from memory at `hl` (R103): `LD H,(HL)` and `LD L,(HL)` read at the old `hl` -/

/-- `LD B,(HL)` (R103). -/
def execLdBAtHl (s : State) : Result := s.load .b (s.pair .hl)

/-- `LD C,(HL)` (R103). -/
def execLdCAtHl (s : State) : Result := s.load .c (s.pair .hl)

/-- `LD D,(HL)` (R103). -/
def execLdDAtHl (s : State) : Result := s.load .d (s.pair .hl)

/-- `LD E,(HL)` (R103). -/
def execLdEAtHl (s : State) : Result := s.load .e (s.pair .hl)

/-- `LD H,(HL)` (R103). -/
def execLdHAtHl (s : State) : Result := s.load .h (s.pair .hl)

/-- `LD L,(HL)` (R103). -/
def execLdLAtHl (s : State) : Result := s.load .l (s.pair .hl)

/-- `LD A,(HL)` (R103). -/
def execLdAAtHl (s : State) : Result := s.load .a (s.pair .hl)

/-! ### Memory at `hl` from register (R104) -/

/-- `LD (HL),B` (R104). -/
def execLdAtHlB (s : State) : Result := s.store (s.pair .hl) s.b

/-- `LD (HL),C` (R104). -/
def execLdAtHlC (s : State) : Result := s.store (s.pair .hl) s.c

/-- `LD (HL),D` (R104). -/
def execLdAtHlD (s : State) : Result := s.store (s.pair .hl) s.d

/-- `LD (HL),E` (R104). -/
def execLdAtHlE (s : State) : Result := s.store (s.pair .hl) s.e

/-- `LD (HL),H` (R104). -/
def execLdAtHlH (s : State) : Result := s.store (s.pair .hl) s.h

/-- `LD (HL),L` (R104). -/
def execLdAtHlL (s : State) : Result := s.store (s.pair .hl) s.l

/-- `LD (HL),A` (R104). -/
def execLdAtHlA (s : State) : Result := s.store (s.pair .hl) s.a

/-! ### Accumulator via `bc`, `de` (R105-R108) -/

/-- `LD A,(BC)` (R105). -/
def execLdAAtBc (s : State) : Result := s.load .a (s.pair .bc)

/-- `LD A,(DE)` (R106). -/
def execLdAAtDe (s : State) : Result := s.load .a (s.pair .de)

/-- `LD (BC),A` (R107). -/
def execLdAtBcA (s : State) : Result := s.store (s.pair .bc) s.a

/-- `LD (DE),A` (R108). -/
def execLdAtDeA (s : State) : Result := s.store (s.pair .de) s.a

/-! ### Accumulator at an absolute address (R109, R110) -/

/-- `LD A,(a16)` (R109). -/
def execLdAAtA16 (n : Word) (s : State) : Result := s.load .a n

/-- `LD (a16),A` (R110). -/
def execLdAtA16A (n : Word) (s : State) : Result := s.store n s.a

/-! ### Port-style (R111-R114) -/

/-- `LDH A,(C)` (R111). -/
def execLdhAAtC (s : State) : Result := s.load .a (portAddress s.c)

/-- `LDH (C),A` (R112). -/
def execLdhAtCA (s : State) : Result := s.store (portAddress s.c) s.a

/-- `LDH A,(a8)` (R113). -/
def execLdhAAtA8 (n : Byte) (s : State) : Result := s.load .a (portAddress n)

/-- `LDH (a8),A` (R114). -/
def execLdhAtA8A (n : Byte) (s : State) : Result := s.store (portAddress n) s.a

/-! ### Auto-increment and auto-decrement `hl` (R115-R118): the access first, then `hl` -/

/-- `LD (HL+),A` (R115). -/
def execLdAtHlIncA (s : State) : Result := s.writeThen (s.pair .hl) s.a fun t => .next t.incHl

/-- `LD A,(HL+)` (R116). -/
def execLdAAtHlInc (s : State) : Result := s.readThen (s.pair .hl) fun v => .next (s.setReg .a v).incHl

/-- `LD (HL-),A` (R117). -/
def execLdAtHlDecA (s : State) : Result := s.writeThen (s.pair .hl) s.a fun t => .next t.decHl

/-- `LD A,(HL-)` (R118). -/
def execLdAAtHlDec (s : State) : Result := s.readThen (s.pair .hl) fun v => .next (s.setReg .a v).decHl

end Sys2Proof.Machine
end

