-- ==== Sys2Proof/Machine/Misc.lean ====
section
/-!
DEFINITION. NOP and STOP (spec/43_misc.md R160, R161): nothing beyond the opcode fetch.
STOP enters no halted state (log entry 10).
-/

namespace Sys2Proof.Machine

/-- `NOP` (R160). -/
def execNop (s : State) : Result := .next s

/-- `STOP` (R161). -/
def execStop (s : State) : Result := .next s

end Sys2Proof.Machine
end

