-- ==== Sys2Proof/Machine/Stack.lean ====
section
/-!
DEFINITION. The stack operations (spec/42_stack.md R150-R152): POP AF alone changes a flag.
-/

namespace Sys2Proof.Machine

/-- `PUSH BC` (R150). -/
def execPushBc (s : State) : Result := s.push (s.pair .bc)

/-- `PUSH DE` (R150). -/
def execPushDe (s : State) : Result := s.push (s.pair .de)

/-- `PUSH HL` (R150). -/
def execPushHl (s : State) : Result := s.push (s.pair .hl)

/-- `PUSH AF` (R150). -/
def execPushAf (s : State) : Result := s.push (s.pair .af)

/-- `POP BC` (R151). -/
def execPopBc (s : State) : Result := s.pop .bc

/-- `POP DE` (R151). -/
def execPopDe (s : State) : Result := s.pop .de

/-- `POP HL` (R151). -/
def execPopHl (s : State) : Result := s.pop .hl

/-- `POP AF` (R152). -/
def execPopAf (s : State) : Result := s.pop .af

end Sys2Proof.Machine
end

