-- ==== Sys2Proof/Syntax.lean ====
section
/-!
DEFINITION. The instruction set as syntax: one constructor for each row of
spec/opcode_table.json (101 rows, spec/30_encoding.md R80).
A constructor's name spells its row's mnemonic, the destination first: `AtHl` is the memory byte at `hl`, `(HL)`;
`N8`, `N16`, `A8`, `A16` are the immediates of R76.
-/

namespace Sys2Proof

/-- The formats of R70: one opcode byte and 0, 1 or 2 operand bytes. -/
inductive Format where
  | f0
  | f1
  | f2
deriving DecidableEq, Repr

/-- How many operand bytes follow the opcode (R70). -/
def Format.operandBytes : Format → Nat
  | .f0 => 0
  | .f1 => 1
  | .f2 => 2

/-- An instruction's immediate: none, `n8`/`a8`, or `n16`/`a16` (R76). -/
inductive Imm where
  | none
  | n8 (n : Byte)
  | n16 (n : Word)
deriving DecidableEq, Repr

/-- The admitted instructions (R80). -/
inductive Instr where
  /-- `NOP`, 0x00 (R160). -/
  | nop
  /-- `LD BC,n16`, 0x01 (R140). -/
  | ldBcN16 (n : Word)
  /-- `LD (BC),A`, 0x02 (R107). -/
  | ldAtBcA
  /-- `LD B,n8`, 0x06 (R101). -/
  | ldBN8 (n : Byte)
  /-- `LD (a16),SP`, 0x08 (R141). -/
  | ldAtA16Sp (n : Word)
  /-- `LD A,(BC)`, 0x0A (R105). -/
  | ldAAtBc
  /-- `LD C,n8`, 0x0E (R101). -/
  | ldCN8 (n : Byte)
  /-- `STOP`, 0x10 (R161). -/
  | stop
  /-- `LD DE,n16`, 0x11 (R140). -/
  | ldDeN16 (n : Word)
  /-- `LD (DE),A`, 0x12 (R108). -/
  | ldAtDeA
  /-- `LD D,n8`, 0x16 (R101). -/
  | ldDN8 (n : Byte)
  /-- `LD A,(DE)`, 0x1A (R106). -/
  | ldAAtDe
  /-- `LD E,n8`, 0x1E (R101). -/
  | ldEN8 (n : Byte)
  /-- `LD HL,n16`, 0x21 (R140). -/
  | ldHlN16 (n : Word)
  /-- `LD (HL+),A`, 0x22 (R115). -/
  | ldAtHlIncA
  /-- `LD H,n8`, 0x26 (R101). -/
  | ldHN8 (n : Byte)
  /-- `LD A,(HL+)`, 0x2A (R116). -/
  | ldAAtHlInc
  /-- `LD L,n8`, 0x2E (R101). -/
  | ldLN8 (n : Byte)
  /-- `LD SP,n16`, 0x31 (R140). -/
  | ldSpN16 (n : Word)
  /-- `LD (HL-),A`, 0x32 (R117). -/
  | ldAtHlDecA
  /-- `LD (HL),n8`, 0x36 (R102). -/
  | ldAtHlN8 (n : Byte)
  /-- `LD A,(HL-)`, 0x3A (R118). -/
  | ldAAtHlDec
  /-- `LD A,n8`, 0x3E (R101). -/
  | ldAN8 (n : Byte)
  /-- `LD B,B`, 0x40 (R100). -/
  | ldBB
  /-- `LD B,C`, 0x41 (R100). -/
  | ldBC
  /-- `LD B,D`, 0x42 (R100). -/
  | ldBD
  /-- `LD B,E`, 0x43 (R100). -/
  | ldBE
  /-- `LD B,H`, 0x44 (R100). -/
  | ldBH
  /-- `LD B,L`, 0x45 (R100). -/
  | ldBL
  /-- `LD B,(HL)`, 0x46 (R103). -/
  | ldBAtHl
  /-- `LD B,A`, 0x47 (R100). -/
  | ldBA
  /-- `LD C,B`, 0x48 (R100). -/
  | ldCB
  /-- `LD C,C`, 0x49 (R100). -/
  | ldCC
  /-- `LD C,D`, 0x4A (R100). -/
  | ldCD
  /-- `LD C,E`, 0x4B (R100). -/
  | ldCE
  /-- `LD C,H`, 0x4C (R100). -/
  | ldCH
  /-- `LD C,L`, 0x4D (R100). -/
  | ldCL
  /-- `LD C,(HL)`, 0x4E (R103). -/
  | ldCAtHl
  /-- `LD C,A`, 0x4F (R100). -/
  | ldCA
  /-- `LD D,B`, 0x50 (R100). -/
  | ldDB
  /-- `LD D,C`, 0x51 (R100). -/
  | ldDC
  /-- `LD D,D`, 0x52 (R100). -/
  | ldDD
  /-- `LD D,E`, 0x53 (R100). -/
  | ldDE
  /-- `LD D,H`, 0x54 (R100). -/
  | ldDH
  /-- `LD D,L`, 0x55 (R100). -/
  | ldDL
  /-- `LD D,(HL)`, 0x56 (R103). -/
  | ldDAtHl
  /-- `LD D,A`, 0x57 (R100). -/
  | ldDA
  /-- `LD E,B`, 0x58 (R100). -/
  | ldEB
  /-- `LD E,C`, 0x59 (R100). -/
  | ldEC
  /-- `LD E,D`, 0x5A (R100). -/
  | ldED
  /-- `LD E,E`, 0x5B (R100). -/
  | ldEE
  /-- `LD E,H`, 0x5C (R100). -/
  | ldEH
  /-- `LD E,L`, 0x5D (R100). -/
  | ldEL
  /-- `LD E,(HL)`, 0x5E (R103). -/
  | ldEAtHl
  /-- `LD E,A`, 0x5F (R100). -/
  | ldEA
  /-- `LD H,B`, 0x60 (R100). -/
  | ldHB
  /-- `LD H,C`, 0x61 (R100). -/
  | ldHC
  /-- `LD H,D`, 0x62 (R100). -/
  | ldHD
  /-- `LD H,E`, 0x63 (R100). -/
  | ldHE
  /-- `LD H,H`, 0x64 (R100). -/
  | ldHH
  /-- `LD H,L`, 0x65 (R100). -/
  | ldHL
  /-- `LD H,(HL)`, 0x66 (R103). -/
  | ldHAtHl
  /-- `LD H,A`, 0x67 (R100). -/
  | ldHA
  /-- `LD L,B`, 0x68 (R100). -/
  | ldLB
  /-- `LD L,C`, 0x69 (R100). -/
  | ldLC
  /-- `LD L,D`, 0x6A (R100). -/
  | ldLD
  /-- `LD L,E`, 0x6B (R100). -/
  | ldLE
  /-- `LD L,H`, 0x6C (R100). -/
  | ldLH
  /-- `LD L,L`, 0x6D (R100). -/
  | ldLL
  /-- `LD L,(HL)`, 0x6E (R103). -/
  | ldLAtHl
  /-- `LD L,A`, 0x6F (R100). -/
  | ldLA
  /-- `LD (HL),B`, 0x70 (R104). -/
  | ldAtHlB
  /-- `LD (HL),C`, 0x71 (R104). -/
  | ldAtHlC
  /-- `LD (HL),D`, 0x72 (R104). -/
  | ldAtHlD
  /-- `LD (HL),E`, 0x73 (R104). -/
  | ldAtHlE
  /-- `LD (HL),H`, 0x74 (R104). -/
  | ldAtHlH
  /-- `LD (HL),L`, 0x75 (R104). -/
  | ldAtHlL
  /-- `LD (HL),A`, 0x77 (R104). -/
  | ldAtHlA
  /-- `LD A,B`, 0x78 (R100). -/
  | ldAB
  /-- `LD A,C`, 0x79 (R100). -/
  | ldAC
  /-- `LD A,D`, 0x7A (R100). -/
  | ldAD
  /-- `LD A,E`, 0x7B (R100). -/
  | ldAE
  /-- `LD A,H`, 0x7C (R100). -/
  | ldAH
  /-- `LD A,L`, 0x7D (R100). -/
  | ldAL
  /-- `LD A,(HL)`, 0x7E (R103). -/
  | ldAAtHl
  /-- `LD A,A`, 0x7F (R100). -/
  | ldAA
  /-- `POP BC`, 0xC1 (R151). -/
  | popBc
  /-- `PUSH BC`, 0xC5 (R150). -/
  | pushBc
  /-- `POP DE`, 0xD1 (R151). -/
  | popDe
  /-- `PUSH DE`, 0xD5 (R150). -/
  | pushDe
  /-- `LDH (a8),A`, 0xE0 (R114). -/
  | ldhAtA8A (n : Byte)
  /-- `POP HL`, 0xE1 (R151). -/
  | popHl
  /-- `LDH (C),A`, 0xE2 (R112). -/
  | ldhAtCA
  /-- `PUSH HL`, 0xE5 (R150). -/
  | pushHl
  /-- `LD (a16),A`, 0xEA (R110). -/
  | ldAtA16A (n : Word)
  /-- `LDH A,(a8)`, 0xF0 (R113). -/
  | ldhAAtA8 (n : Byte)
  /-- `POP AF`, 0xF1 (R152). -/
  | popAf
  /-- `LDH A,(C)`, 0xF2 (R111). -/
  | ldhAAtC
  /-- `PUSH AF`, 0xF5 (R150). -/
  | pushAf
  /-- `LD SP,HL`, 0xF9 (R142). -/
  | ldSpHl
  /-- `LD A,(a16)`, 0xFA (R109). -/
  | ldAAtA16 (n : Word)
deriving DecidableEq, Repr

/-- The format of an instruction's row (R70, R80). -/
def Instr.format : Instr → Format
  | .nop | .ldAtBcA | .ldAAtBc | .stop | .ldAtDeA | .ldAAtDe | .ldAtHlIncA | .ldAAtHlInc | .ldAtHlDecA
  | .ldAAtHlDec | .ldBB | .ldBC | .ldBD | .ldBE | .ldBH | .ldBL | .ldBAtHl | .ldBA | .ldCB | .ldCC | .ldCD
  | .ldCE | .ldCH | .ldCL | .ldCAtHl | .ldCA | .ldDB | .ldDC | .ldDD | .ldDE | .ldDH | .ldDL | .ldDAtHl
  | .ldDA | .ldEB | .ldEC | .ldED | .ldEE | .ldEH | .ldEL | .ldEAtHl | .ldEA | .ldHB | .ldHC | .ldHD | .ldHE
  | .ldHH | .ldHL | .ldHAtHl | .ldHA | .ldLB | .ldLC | .ldLD | .ldLE | .ldLH | .ldLL | .ldLAtHl | .ldLA
  | .ldAtHlB | .ldAtHlC | .ldAtHlD | .ldAtHlE | .ldAtHlH | .ldAtHlL | .ldAtHlA | .ldAB | .ldAC | .ldAD
  | .ldAE | .ldAH | .ldAL | .ldAAtHl | .ldAA | .popBc | .pushBc | .popDe | .pushDe | .popHl | .ldhAtCA
  | .pushHl | .popAf | .ldhAAtC | .pushAf | .ldSpHl
    => .f0
  | .ldBN8 _ | .ldCN8 _ | .ldDN8 _ | .ldEN8 _ | .ldHN8 _ | .ldLN8 _ | .ldAtHlN8 _ | .ldAN8 _ | .ldhAtA8A _
  | .ldhAAtA8 _
    => .f1
  | .ldBcN16 _ | .ldAtA16Sp _ | .ldDeN16 _ | .ldHlN16 _ | .ldSpN16 _ | .ldAtA16A _ | .ldAAtA16 _
    => .f2

/-- The immediate an instruction carries (R76). -/
def Instr.imm : Instr → Imm
  | .nop | .ldAtBcA | .ldAAtBc | .stop | .ldAtDeA | .ldAAtDe | .ldAtHlIncA | .ldAAtHlInc | .ldAtHlDecA
  | .ldAAtHlDec | .ldBB | .ldBC | .ldBD | .ldBE | .ldBH | .ldBL | .ldBAtHl | .ldBA | .ldCB | .ldCC | .ldCD
  | .ldCE | .ldCH | .ldCL | .ldCAtHl | .ldCA | .ldDB | .ldDC | .ldDD | .ldDE | .ldDH | .ldDL | .ldDAtHl
  | .ldDA | .ldEB | .ldEC | .ldED | .ldEE | .ldEH | .ldEL | .ldEAtHl | .ldEA | .ldHB | .ldHC | .ldHD | .ldHE
  | .ldHH | .ldHL | .ldHAtHl | .ldHA | .ldLB | .ldLC | .ldLD | .ldLE | .ldLH | .ldLL | .ldLAtHl | .ldLA
  | .ldAtHlB | .ldAtHlC | .ldAtHlD | .ldAtHlE | .ldAtHlH | .ldAtHlL | .ldAtHlA | .ldAB | .ldAC | .ldAD
  | .ldAE | .ldAH | .ldAL | .ldAAtHl | .ldAA | .popBc | .pushBc | .popDe | .pushDe | .popHl | .ldhAtCA
  | .pushHl | .popAf | .ldhAAtC | .pushAf | .ldSpHl
    => .none
  | .ldBN8 n | .ldCN8 n | .ldDN8 n | .ldEN8 n | .ldHN8 n | .ldLN8 n | .ldAtHlN8 n | .ldAN8 n | .ldhAtA8A n
  | .ldhAAtA8 n
    => .n8 n
  | .ldBcN16 n | .ldAtA16Sp n | .ldDeN16 n | .ldHlN16 n | .ldSpN16 n | .ldAtA16A n | .ldAAtA16 n
    => .n16 n

end Sys2Proof
end

