-- ==== Sys2Proof/WellFormed.lean ====
section
/-!
DEFINITION. Well-formedness of an instruction: its format admits the immediate it carries (spec/30_encoding.md R70, R76).
Every register choice is a constructor and every value of a `Byte` or `Word` immediate is legal (R76),
so every term of `Instr` passes; the check refuses the ill-formed pairs of a format and an immediate.
-/

namespace Sys2Proof

/-- Whether an instruction of this format can carry this immediate (R70). -/
def Format.admits : Format → Imm → Bool
  | .f0, .none => true
  | .f0, .n8 _ => false
  | .f0, .n16 _ => false
  | .f1, .none => false
  | .f1, .n8 _ => true
  | .f1, .n16 _ => false
  | .f2, .none => false
  | .f2, .n8 _ => false
  | .f2, .n16 _ => true

/-- An instruction is well formed when its row's format admits its immediate. -/
def Instr.wf (i : Instr) : Bool := i.format.admits i.imm

end Sys2Proof
end

