-- ==== Sys2Proof/Decode.lean ====
section
/-!
DEFINITION. The decoder and the encoder (spec/30_encoding.md R70-R81), over bytes in stream order.
The opcode map is data: one row for each admitted opcode byte, R80. Decoding is total (R78): every byte string
gives an instruction and the bytes after it, or is rejected by name.
The opcode values are the spec's decision D2 (log entry 4).
-/

namespace Sys2Proof

/-- A row of R80: what its format makes of the operand bytes. -/
inductive Row where
  | f0 (i : Instr)
  | f1 (mk : Byte → Instr)
  | f2 (mk : Word → Instr)

/-- How many operand bytes a row fetches (R70). -/
def Row.operandBytes : Row → Nat
  | .f0 _ => 0
  | .f1 _ => 1
  | .f2 _ => 2

/-- R80, the rows 0x00 to 0x3E. -/
def tableImmediate : List (Byte × Row) := [
  (0x00#8, .f0 .nop), (0x01#8, .f2 .ldBcN16), (0x02#8, .f0 .ldAtBcA), (0x06#8, .f1 .ldBN8),
  (0x08#8, .f2 .ldAtA16Sp), (0x0A#8, .f0 .ldAAtBc), (0x0E#8, .f1 .ldCN8), (0x10#8, .f0 .stop),
  (0x11#8, .f2 .ldDeN16), (0x12#8, .f0 .ldAtDeA), (0x16#8, .f1 .ldDN8), (0x1A#8, .f0 .ldAAtDe),
  (0x1E#8, .f1 .ldEN8), (0x21#8, .f2 .ldHlN16), (0x22#8, .f0 .ldAtHlIncA), (0x26#8, .f1 .ldHN8),
  (0x2A#8, .f0 .ldAAtHlInc), (0x2E#8, .f1 .ldLN8), (0x31#8, .f2 .ldSpN16), (0x32#8, .f0 .ldAtHlDecA),
  (0x36#8, .f1 .ldAtHlN8), (0x3A#8, .f0 .ldAAtHlDec), (0x3E#8, .f1 .ldAN8)]

/-- R80, the rows 0x40 to 0x4F: destinations B and C. -/
def tableMoveBC : List (Byte × Row) := [
  (0x40#8, .f0 .ldBB), (0x41#8, .f0 .ldBC), (0x42#8, .f0 .ldBD), (0x43#8, .f0 .ldBE), (0x44#8, .f0 .ldBH),
  (0x45#8, .f0 .ldBL), (0x46#8, .f0 .ldBAtHl), (0x47#8, .f0 .ldBA), (0x48#8, .f0 .ldCB), (0x49#8, .f0 .ldCC),
  (0x4A#8, .f0 .ldCD), (0x4B#8, .f0 .ldCE), (0x4C#8, .f0 .ldCH), (0x4D#8, .f0 .ldCL), (0x4E#8, .f0 .ldCAtHl),
  (0x4F#8, .f0 .ldCA)]

/-- R80, the rows 0x50 to 0x5F: destinations D and E. -/
def tableMoveDE : List (Byte × Row) := [
  (0x50#8, .f0 .ldDB), (0x51#8, .f0 .ldDC), (0x52#8, .f0 .ldDD), (0x53#8, .f0 .ldDE), (0x54#8, .f0 .ldDH),
  (0x55#8, .f0 .ldDL), (0x56#8, .f0 .ldDAtHl), (0x57#8, .f0 .ldDA), (0x58#8, .f0 .ldEB), (0x59#8, .f0 .ldEC),
  (0x5A#8, .f0 .ldED), (0x5B#8, .f0 .ldEE), (0x5C#8, .f0 .ldEH), (0x5D#8, .f0 .ldEL), (0x5E#8, .f0 .ldEAtHl),
  (0x5F#8, .f0 .ldEA)]

/-- R80, the rows 0x60 to 0x6F: destinations H and L. -/
def tableMoveHL : List (Byte × Row) := [
  (0x60#8, .f0 .ldHB), (0x61#8, .f0 .ldHC), (0x62#8, .f0 .ldHD), (0x63#8, .f0 .ldHE), (0x64#8, .f0 .ldHH),
  (0x65#8, .f0 .ldHL), (0x66#8, .f0 .ldHAtHl), (0x67#8, .f0 .ldHA), (0x68#8, .f0 .ldLB), (0x69#8, .f0 .ldLC),
  (0x6A#8, .f0 .ldLD), (0x6B#8, .f0 .ldLE), (0x6C#8, .f0 .ldLH), (0x6D#8, .f0 .ldLL), (0x6E#8, .f0 .ldLAtHl),
  (0x6F#8, .f0 .ldLA)]

/-- R80, the rows 0x70 to 0x7F: destinations (HL) and A; 0x76 has no row (R77). -/
def tableMoveMA : List (Byte × Row) := [
  (0x70#8, .f0 .ldAtHlB), (0x71#8, .f0 .ldAtHlC), (0x72#8, .f0 .ldAtHlD), (0x73#8, .f0 .ldAtHlE),
  (0x74#8, .f0 .ldAtHlH), (0x75#8, .f0 .ldAtHlL), (0x77#8, .f0 .ldAtHlA), (0x78#8, .f0 .ldAB),
  (0x79#8, .f0 .ldAC), (0x7A#8, .f0 .ldAD), (0x7B#8, .f0 .ldAE), (0x7C#8, .f0 .ldAH), (0x7D#8, .f0 .ldAL),
  (0x7E#8, .f0 .ldAAtHl), (0x7F#8, .f0 .ldAA)]

/-- R80, the rows 0xC1 to 0xFA. -/
def tableStackPort : List (Byte × Row) := [
  (0xC1#8, .f0 .popBc), (0xC5#8, .f0 .pushBc), (0xD1#8, .f0 .popDe), (0xD5#8, .f0 .pushDe),
  (0xE0#8, .f1 .ldhAtA8A), (0xE1#8, .f0 .popHl), (0xE2#8, .f0 .ldhAtCA), (0xE5#8, .f0 .pushHl),
  (0xEA#8, .f2 .ldAtA16A), (0xF0#8, .f1 .ldhAAtA8), (0xF1#8, .f0 .popAf), (0xF2#8, .f0 .ldhAAtC),
  (0xF5#8, .f0 .pushAf), (0xF9#8, .f0 .ldSpHl), (0xFA#8, .f2 .ldAAtA16)]

/-- The admitted opcode table (R80). -/
def opcodeTable : List (Byte × Row) :=
  tableImmediate ++ tableMoveBC ++ tableMoveDE ++ tableMoveHL ++ tableMoveMA ++ tableStackPort

/-- The row of an opcode byte in a table. -/
def findRow : List (Byte × Row) → Byte → Option Row
  | [], _ => none
  | (k, row) :: rest, op => if op = k then some row else findRow rest op

/-- `OpcodeTable[op]` (R71): none for the unsupported opcodes (R77). -/
def opcodeRow (op : Byte) : Option Row := findRow opcodeTable op

/-- Why a byte string does not begin with an instruction. -/
inductive DecodeError where
  /-- The opcode byte has no row (R77). -/
  | unsupportedOpcode (op : Byte)
  /-- The bytes end before the instruction does. -/
  | truncated
deriving DecidableEq, Repr

/-- The instruction a byte string begins with, and the bytes after it.
The opcode alone fixes the length (R70); a 16-bit immediate is low byte first (R73). -/
def decode : List Byte → Except DecodeError (Instr × List Byte)
  | [] => .error .truncated
  | op :: rest =>
    match opcodeRow op with
    | none => .error (.unsupportedOpcode op)
    | some (.f0 i) => .ok (i, rest)
    | some (.f1 mk) =>
      match rest with
      | n :: rest' => .ok (mk n, rest')
      | [] => .error .truncated
    | some (.f2 mk) =>
      match rest with
      | lo :: hi :: rest' => .ok (mk (cat16 hi lo), rest')
      | _ => .error .truncated

/-- The opcode byte of an instruction (R80). -/
def Instr.opcode : Instr → Byte
  | .nop => 0b00000000#8
  | .ldBcN16 _ => 0b00000001#8
  | .ldAtBcA => 0b00000010#8
  | .ldBN8 _ => 0b00000110#8
  | .ldAtA16Sp _ => 0b00001000#8
  | .ldAAtBc => 0b00001010#8
  | .ldCN8 _ => 0b00001110#8
  | .stop => 0b00010000#8
  | .ldDeN16 _ => 0b00010001#8
  | .ldAtDeA => 0b00010010#8
  | .ldDN8 _ => 0b00010110#8
  | .ldAAtDe => 0b00011010#8
  | .ldEN8 _ => 0b00011110#8
  | .ldHlN16 _ => 0b00100001#8
  | .ldAtHlIncA => 0b00100010#8
  | .ldHN8 _ => 0b00100110#8
  | .ldAAtHlInc => 0b00101010#8
  | .ldLN8 _ => 0b00101110#8
  | .ldSpN16 _ => 0b00110001#8
  | .ldAtHlDecA => 0b00110010#8
  | .ldAtHlN8 _ => 0b00110110#8
  | .ldAAtHlDec => 0b00111010#8
  | .ldAN8 _ => 0b00111110#8
  | .ldBB => 0b01000000#8
  | .ldBC => 0b01000001#8
  | .ldBD => 0b01000010#8
  | .ldBE => 0b01000011#8
  | .ldBH => 0b01000100#8
  | .ldBL => 0b01000101#8
  | .ldBAtHl => 0b01000110#8
  | .ldBA => 0b01000111#8
  | .ldCB => 0b01001000#8
  | .ldCC => 0b01001001#8
  | .ldCD => 0b01001010#8
  | .ldCE => 0b01001011#8
  | .ldCH => 0b01001100#8
  | .ldCL => 0b01001101#8
  | .ldCAtHl => 0b01001110#8
  | .ldCA => 0b01001111#8
  | .ldDB => 0b01010000#8
  | .ldDC => 0b01010001#8
  | .ldDD => 0b01010010#8
  | .ldDE => 0b01010011#8
  | .ldDH => 0b01010100#8
  | .ldDL => 0b01010101#8
  | .ldDAtHl => 0b01010110#8
  | .ldDA => 0b01010111#8
  | .ldEB => 0b01011000#8
  | .ldEC => 0b01011001#8
  | .ldED => 0b01011010#8
  | .ldEE => 0b01011011#8
  | .ldEH => 0b01011100#8
  | .ldEL => 0b01011101#8
  | .ldEAtHl => 0b01011110#8
  | .ldEA => 0b01011111#8
  | .ldHB => 0b01100000#8
  | .ldHC => 0b01100001#8
  | .ldHD => 0b01100010#8
  | .ldHE => 0b01100011#8
  | .ldHH => 0b01100100#8
  | .ldHL => 0b01100101#8
  | .ldHAtHl => 0b01100110#8
  | .ldHA => 0b01100111#8
  | .ldLB => 0b01101000#8
  | .ldLC => 0b01101001#8
  | .ldLD => 0b01101010#8
  | .ldLE => 0b01101011#8
  | .ldLH => 0b01101100#8
  | .ldLL => 0b01101101#8
  | .ldLAtHl => 0b01101110#8
  | .ldLA => 0b01101111#8
  | .ldAtHlB => 0b01110000#8
  | .ldAtHlC => 0b01110001#8
  | .ldAtHlD => 0b01110010#8
  | .ldAtHlE => 0b01110011#8
  | .ldAtHlH => 0b01110100#8
  | .ldAtHlL => 0b01110101#8
  | .ldAtHlA => 0b01110111#8
  | .ldAB => 0b01111000#8
  | .ldAC => 0b01111001#8
  | .ldAD => 0b01111010#8
  | .ldAE => 0b01111011#8
  | .ldAH => 0b01111100#8
  | .ldAL => 0b01111101#8
  | .ldAAtHl => 0b01111110#8
  | .ldAA => 0b01111111#8
  | .popBc => 0b11000001#8
  | .pushBc => 0b11000101#8
  | .popDe => 0b11010001#8
  | .pushDe => 0b11010101#8
  | .ldhAtA8A _ => 0b11100000#8
  | .popHl => 0b11100001#8
  | .ldhAtCA => 0b11100010#8
  | .pushHl => 0b11100101#8
  | .ldAtA16A _ => 0b11101010#8
  | .ldhAAtA8 _ => 0b11110000#8
  | .popAf => 0b11110001#8
  | .ldhAAtC => 0b11110010#8
  | .pushAf => 0b11110101#8
  | .ldSpHl => 0b11111001#8
  | .ldAAtA16 _ => 0b11111010#8

/-- An immediate's bytes in stream order, the low byte first (R73). -/
def Imm.bytes : Imm → List Byte
  | .none => []
  | .n8 n => [n]
  | .n16 n => [lo8 n, hi8 n]

/-- The bytes of an instruction, in stream order (R70). -/
def encode (i : Instr) : List Byte := i.opcode :: i.imm.bytes

/-- The instruction's length in bytes: 1, 2 or 3 (R70). -/
def Instr.length (i : Instr) : Nat := 1 + i.format.operandBytes

/-- Bytes 0, 1 and 2 of a word whose bit 0 is the least significant bit of the first byte. -/
def tableBytes (nbits w : Nat) : List Byte :=
  let v := w % 2 ^ nbits
  [BitVec.ofNat 8 v, BitVec.ofNat 8 (v / 0x100), BitVec.ofNat 8 (v / 0x10000)]

/-- The instruction the decoder reads from a word numbered as spec/opcode_table.json numbers it. -/
def decodeTableWord (nbits w : Nat) : Option Instr :=
  match decode (tableBytes nbits w) with
  | .ok (i, _) => some i
  | .error _ => none

end Sys2Proof
end

