-- ==== Sys2Proof/Machine/Fetch.lean ====
section
/-!
DEFINITION. Fetching an instruction's bytes (spec/30_encoding.md R71-R73): the opcode, then as many operand bytes as
its row has, each through the bus at `pc`. No instruction accesses data before its last operand fetch (R175), so the
bytes are fetched first and the decoded instruction is executed on the state that has them behind it (log entry 17).
Also where a program's bytes are placed so that the next step fetches them.
-/

namespace Sys2Proof.Machine

/-- `FetchByte()` (R72): on an error `pc` has not moved. -/
def State.fetchByte (s : State) : Except CoreError (Byte × State) :=
  match s.mem.read s.pc with
  | .ok v => .ok (v, s.setPc (s.pc + 1#16))
  | .error e => .error e

/-- `n` fetches in a row; on an error, the state the earlier fetches left (R174). -/
def State.fetchBytes (s : State) : Nat → Except (CoreError × State) (List Byte × State)
  | 0 => .ok ([], s)
  | n + 1 =>
    match s.fetchByte with
    | .error e => .error (e, s)
    | .ok (v, s1) =>
      match s1.fetchBytes n with
      | .error x => .error x
      | .ok (vs, s2) => .ok (v :: vs, s2)

/-- The instruction at `pc` and the state after its fetches, or the error that is raised and the state it is raised on.
The order is the opcode fetch, `UnsupportedOpcode`, the operand fetches (R175). An unsupported opcode fetches no
operand (R77). -/
def State.fetchInstr (s : State) : Except (CoreError × State) (Instr × State) :=
  match s.fetchByte with
  | .error e => .error (e, s)
  | .ok (op, s1) =>
    match opcodeRow op with
    | none => .error (.unsupportedOpcode op, s1)
    | some row =>
      match s1.fetchBytes row.operandBytes with
      | .error x => .error x
      | .ok (vs, s2) =>
        match decode (op :: vs) with
        | .ok (i, _) => .ok (i, s2)
        | .error _ => .error (.unsupportedOpcode op, s2)

/-- The memory with a byte placed where a fetch at `addr` reads it: the store `addr` routes to for a read, the
cartridge image grown to hold it. An address no store answers is left alone. -/
def Memory.place (m : Memory) (addr : Word) (v : Byte) : Memory :=
  match route .read addr with
  | .cell .cart k => { m with cart := m.cart.set k v, cartLen := max m.cartLen (k + 1) }
  | .cell id k => m.setStore id ((m.store id).set k v)
  | .prohibited => m
  | .unmapped => m

/-- The memory with bytes placed from an address on. -/
def Memory.placeBytes (m : Memory) (addr : Word) : List Byte → Memory
  | [] => m
  | v :: vs => (m.place addr v).placeBytes (addr + 1#16) vs

/-- Whether a fetch from `n` addresses in a row reaches stores. -/
def mappedFrom (addr : Word) : Nat → Bool
  | 0 => true
  | n + 1 =>
    match route .read addr with
    | .cell _ _ => mappedFrom (addr + 1#16) n
    | .prohibited => false
    | .unmapped => false

/-- The bytes of the instruction that a byte string begins with: its opcode and its row's operand bytes. -/
def instrBytes : List Byte → List Byte
  | [] => []
  | op :: rest =>
    match opcodeRow op with
    | none => [op]
    | some row => op :: rest.take row.operandBytes

/-- `s` about to fetch `bytes`: they stand at `pc` and the latch is clear. Where `pc` is at an address no store answers,
`pc` moves to the start of WRAM first. -/
def State.placeAtPc (s : State) (bytes : List Byte) : State :=
  let pc := if mappedFrom s.pc bytes.length then s.pc else 0xC000#16
  { s with pc := pc, fault := none, mem := s.mem.placeBytes pc bytes }

end Sys2Proof.Machine
end

