-- ==== Sys2Proof/Machine/Step.lean ====
section
/-!
DEFINITION. One fetch-decode-execute transition (spec/30_encoding.md R71, spec/60_exceptions.md R173).
The value `step()` returns to the host is `stepReturn` in Machine/Run.lean.
-/

namespace Sys2Proof.Machine

/-- `step()` (R71). A faulted core executes nothing (R173). A raise answers the next state with the latch set (R172). -/
def step (s : State) : Host.Outcome State Fault Refusal :=
  match s.fault with
  | some e => .fault (.latched e)
  | none =>
    match s.fetchInstr with
    | .ok (i, t) => exec i t
    | .error (e, t) => t.raise e

/-- `s` with the instruction of a table word stored where `step` fetches it next, the latch clear, and the cartridge
image grown to hold it where it lies in the cartridge (log entry 8). -/
def State.withFetchWord (s : State) (nbits w : Nat) : State :=
  s.placeAtPc (instrBytes (tableBytes nbits w))

end Sys2Proof.Machine
end

