-- ==== Sys2Proof/Machine/HostOps.lean ====
section
/-!
DEFINITION. What the host may do to the block between steps (spec/60_exceptions.md R186): load a cartridge
(spec/20_memory.md R61), reset (spec/70_reset_and_hazards.md R190), and read the cartridge header (R63).
-/

namespace Sys2Proof.Machine

/-- `Load(image)` (R61): replaces `cart` and CART_LEN, and changes nothing else. -/
def State.loadImage (s : State) (image : List Byte) : State :=
  { s with mem := { s.mem with cart := Store.ofBytes image, cartLen := image.length } }

/-- `load_cartridge(path)` (R61): `file` is what reading the path gave, none when it could not be opened or fully
read. A failed load changes nothing and sets no latch. -/
def State.loadCartridge (s : State) (file : Option (List Byte)) : Except CoreError State :=
  match file with
  | some image => .ok (s.loadImage image)
  | none => .error .ioFailure

/-- `Reset()` by the host, with its draw of INIT_RAM (R190): power-on, but `cart` keeps its image until the host
loads another (DEDUCED, log entry 5). -/
def State.hostReset (s : State) (ram : InitRam) : State :=
  let t := State.powerOn ram
  { t with mem := { t.mem with cart := s.mem.cart, cartLen := s.mem.cartLen } }

/-- `cart[0x134 + i]` onwards until a zero byte, at most `n` bytes (R63). -/
def Memory.titleFrom (m : Memory) : Nat → Nat → List Byte
  | _, 0 => []
  | k, n + 1 => if m.cart.get k = 0#8 then [] else m.cart.get k :: m.titleFrom (k + 1) n

/-- `Title(cart)` (R63). The spec gives no title for an image that ends before the window does: none (log entry 6). -/
def Memory.title (m : Memory) : Option (List Byte) :=
  if 0x144 ≤ m.cartLen then some (m.titleFrom 0x134 16) else none

/-- The offset of a header field (R63). -/
def headerOffset : Config.HeaderField → Nat
  | .colorSupport => 0x143
  | .legacyPeripheral => 0x146
  | .cartridgeType => 0x147
  | .romSize => 0x148
  | .ramSize => 0x149

/-- The byte of a header field; none where the image is too short (log entry 6). -/
def Memory.headerByte (m : Memory) (field : Config.HeaderField) : Option Byte :=
  if headerOffset field < m.cartLen then some (m.cart.get (headerOffset field)) else none

/-- What is displayed for a header field: a free value of its byte (R63, U9; log entry 7). -/
def Memory.headerText (m : Memory) (field : Config.HeaderField) : Option String :=
  (m.headerByte field).map (Config.headerDescription field)

end Sys2Proof.Machine
end

