-- ==== Sys2Proof/Machine/Cycles.lean ====
section
/-!
DEFINITION. The machine cycles a successful step returns (spec/30_encoding.md R80, spec/70_reset_and_hazards.md R198).
No rule of state or memory depends on them; one machine cycle is four clock ticks.
-/

namespace Sys2Proof

/-- `row.cycles` (R80): fixed for each instruction, independent of operand values. -/
def Instr.cycles : Instr → Nat
  | .nop | .stop | .ldBB | .ldBC | .ldBD | .ldBE | .ldBH | .ldBL | .ldBA | .ldCB | .ldCC | .ldCD | .ldCE
  | .ldCH | .ldCL | .ldCA | .ldDB | .ldDC | .ldDD | .ldDE | .ldDH | .ldDL | .ldDA | .ldEB | .ldEC | .ldED
  | .ldEE | .ldEH | .ldEL | .ldEA | .ldHB | .ldHC | .ldHD | .ldHE | .ldHH | .ldHL | .ldHA | .ldLB | .ldLC
  | .ldLD | .ldLE | .ldLH | .ldLL | .ldLA | .ldAB | .ldAC | .ldAD | .ldAE | .ldAH | .ldAL | .ldAA
    => 1
  | .ldAtBcA | .ldBN8 _ | .ldAAtBc | .ldCN8 _ | .ldAtDeA | .ldDN8 _ | .ldAAtDe | .ldEN8 _ | .ldAtHlIncA
  | .ldHN8 _ | .ldAAtHlInc | .ldLN8 _ | .ldAtHlDecA | .ldAAtHlDec | .ldAN8 _ | .ldBAtHl | .ldCAtHl | .ldDAtHl
  | .ldEAtHl | .ldHAtHl | .ldLAtHl | .ldAtHlB | .ldAtHlC | .ldAtHlD | .ldAtHlE | .ldAtHlH | .ldAtHlL
  | .ldAtHlA | .ldAAtHl | .ldhAtCA | .ldhAAtC | .ldSpHl
    => 2
  | .ldBcN16 _ | .ldDeN16 _ | .ldHlN16 _ | .ldSpN16 _ | .ldAtHlN8 _ | .popBc | .popDe | .ldhAtA8A _ | .popHl
  | .ldhAAtA8 _ | .popAf
    => 3
  | .pushBc | .pushDe | .pushHl | .ldAtA16A _ | .pushAf | .ldAAtA16 _
    => 4
  | .ldAtA16Sp _
    => 5

end Sys2Proof
end

