-- ==== Sys2Proof/Machine/Run.lean ====
section
/-!
DEFINITION. What `step()` returns to the host (spec/30_encoding.md R71) and the end of a run
(spec/70_reset_and_hazards.md R196).
-/

namespace Sys2Proof.Machine

/-- `Ok(n)` or `Err(E)` (R71). -/
inductive StepReturn where
  | ok (cycles : Nat)
  | err (e : CoreError)
deriving DecidableEq, Repr

/-- What a step of an unfaulted core reports with the state it leaves: the row's cycles, unless it raised (R71, R172). -/
def State.returns (t : State) (cycles : Nat) : StepReturn :=
  match t.fault with
  | none => .ok cycles
  | some e => .err e

/-- The cycles of the instruction at `pc`. -/
def State.cyclesAtPc (s : State) : Nat :=
  match s.fetchInstr with
  | .ok (i, _) => i.cycles
  | .error _ => 0

/-- The value `step()` returns on `s` (R71, R173); none if the step is refused, which no step is. -/
def stepReturn (s : State) : Option StepReturn :=
  match step s with
  | .next t => some (t.returns s.cyclesAtPc)
  | .fault (.latched e) => some (.err e)
  | .refused _ => none

/-- How a run ends (R196). -/
inductive RunEnd where
  /-- `pc = STOP_PC` and the latch is clear, before a step. -/
  | ended (final : State) (steps cycles : Nat)
  /-- A step returned `Err(E)`; the state is not final. -/
  | faulted (e : CoreError) (state : State) (steps cycles : Nat)
  /-- FUEL steps have executed with neither. -/
  | outOfFuel (state : State)
  /-- A step was refused; no step is. -/
  | refused (r : Refusal)
deriving DecidableEq, Repr

/-- A run with `fuel` steps left, after `steps` steps that returned `cycles` in all (R196). -/
def runFrom (stopPc : Word) (steps cycles : Nat) : Nat → State → RunEnd
  | 0, s => if s.pc = stopPc ∧ s.fault = none then .ended s steps cycles else .outOfFuel s
  | fuel + 1, s =>
    if s.pc = stopPc ∧ s.fault = none then .ended s steps cycles
    else
      match step s with
      | .fault (.latched e) => .faulted e s steps cycles
      | .refused r => .refused r
      | .next t =>
        match t.returns s.cyclesAtPc with
        | .err e => .faulted e t steps cycles
        | .ok n => runFrom stopPc (steps + 1) (cycles + n) fuel t

/-- The run from a launch state, with STOP_PC and FUEL (R8, R196). -/
def run (stopPc : Word) (fuel : Nat) (s : State) : RunEnd := runFrom stopPc 0 0 fuel s

end Sys2Proof.Machine
end

