-- ==== Sys2Proof/Safety.lean ====
section
/-!
DEFINITION. What counts as a safe run, the invariant of the machine, and the terms claims are stated in.
-/

namespace Sys2Proof.Machine

/-- A safe run reaches STOP_PC with the latch clear within its fuel (spec/70_reset_and_hazards.md R196). -/
def SafeRun (stopPc : Word) (fuel : Nat) (s : State) : Prop :=
  ∃ t steps cycles, run stopPc fuel s = .ended t steps cycles

/-- The bytes that stand from an address on, as the bus reads them (addresses modulo 2^16). -/
def holdsAt (m : Memory) : Word → List Byte → Bool
  | _, [] => true
  | addr, v :: vs =>
    match m.read addr with
    | .ok w => w == v && holdsAt m (addr + 1#16) vs
    | .error _ => false

/-- An error that a step of a core with this memory can raise, with what it carries (spec/60_exceptions.md R170):
the address or the opcode is one that raises it. -/
def CoreError.Genuine (m : Memory) : CoreError → Prop
  | .invalidAddress addr .read =>
    route .read addr = .unmapped ∨ (route .read addr = .cell .cart addr.toNat ∧ m.cartLen ≤ addr.toNat)
  | .invalidAddress addr .write =>
    route .write addr = .unmapped ∨ (route .write addr = .cell .cart addr.toNat ∧ m.cartLen ≤ addr.toNat)
  | .unsupportedOpcode op => opcodeRow op = none
  | .prohibitedAccess addr => route .write addr = .prohibited
  | .ioFailure => False

/-- The invariant of the machine: the low nibble of `f` is zero (spec/10_state.md R22), the stores are canonical and
within their sizes (R32), and a latched error is a genuine one (R30). -/
structure State.Inv (s : State) : Prop where
  flags_low_nibble : s.f &&& 0x0F#8 = 0#8
  memory_wf : s.mem.wf = true
  latch_genuine : ∀ e, s.fault = some e → e.Genuine s.mem

end Sys2Proof.Machine
end

