-- ==== Sys2Proof/Certificates/Slice0/Obligations.lean ====
section
/-!
DEFINITION. The statements about the model. They are stated from the rules of spec/; helper definitions that spell the
spec's own tables (which constructor is which move, which register an instruction reads or writes, which addresses it
stores to) stand first, under `Sys2Proof.Claims`.
-/

namespace Sys2Proof.Claims

open Sys2Proof.Machine

/-! ### Names of the instructions by operand -/

/-- The 3-bit operand code (spec/30_encoding.md R74). -/
def code8 : Reg8 → Nat
  | .b => 0
  | .c => 1
  | .d => 2
  | .e => 3
  | .h => 4
  | .l => 5
  | .a => 7

/-- The 2-bit code of a pair that PUSH and POP name (R75). -/
def codeQq : Pair → Nat
  | .bc => 0
  | .de => 1
  | .hl => 2
  | .af => 3

/-- `LD dst,src` (R100). -/
def moveInstr : Reg8 → Reg8 → Instr
  | .b, .b => .ldBB
  | .b, .c => .ldBC
  | .b, .d => .ldBD
  | .b, .e => .ldBE
  | .b, .h => .ldBH
  | .b, .l => .ldBL
  | .b, .a => .ldBA
  | .c, .b => .ldCB
  | .c, .c => .ldCC
  | .c, .d => .ldCD
  | .c, .e => .ldCE
  | .c, .h => .ldCH
  | .c, .l => .ldCL
  | .c, .a => .ldCA
  | .d, .b => .ldDB
  | .d, .c => .ldDC
  | .d, .d => .ldDD
  | .d, .e => .ldDE
  | .d, .h => .ldDH
  | .d, .l => .ldDL
  | .d, .a => .ldDA
  | .e, .b => .ldEB
  | .e, .c => .ldEC
  | .e, .d => .ldED
  | .e, .e => .ldEE
  | .e, .h => .ldEH
  | .e, .l => .ldEL
  | .e, .a => .ldEA
  | .h, .b => .ldHB
  | .h, .c => .ldHC
  | .h, .d => .ldHD
  | .h, .e => .ldHE
  | .h, .h => .ldHH
  | .h, .l => .ldHL
  | .h, .a => .ldHA
  | .l, .b => .ldLB
  | .l, .c => .ldLC
  | .l, .d => .ldLD
  | .l, .e => .ldLE
  | .l, .h => .ldLH
  | .l, .l => .ldLL
  | .l, .a => .ldLA
  | .a, .b => .ldAB
  | .a, .c => .ldAC
  | .a, .d => .ldAD
  | .a, .e => .ldAE
  | .a, .h => .ldAH
  | .a, .l => .ldAL
  | .a, .a => .ldAA

/-- `LD dst,n8` (R101). -/
def loadImmInstr : Reg8 → Byte → Instr
  | .b, n => .ldBN8 n
  | .c, n => .ldCN8 n
  | .d, n => .ldDN8 n
  | .e, n => .ldEN8 n
  | .h, n => .ldHN8 n
  | .l, n => .ldLN8 n
  | .a, n => .ldAN8 n

/-- `LD dst,(HL)` (R103). -/
def loadHlInstr : Reg8 → Instr
  | .b => .ldBAtHl
  | .c => .ldCAtHl
  | .d => .ldDAtHl
  | .e => .ldEAtHl
  | .h => .ldHAtHl
  | .l => .ldLAtHl
  | .a => .ldAAtHl

/-- `LD (HL),src` (R104). -/
def storeHlInstr : Reg8 → Instr
  | .b => .ldAtHlB
  | .c => .ldAtHlC
  | .d => .ldAtHlD
  | .e => .ldAtHlE
  | .h => .ldAtHlH
  | .l => .ldAtHlL
  | .a => .ldAtHlA

/-- `PUSH qq` (R150). -/
def pushInstr : Pair → Instr
  | .bc => .pushBc
  | .de => .pushDe
  | .hl => .pushHl
  | .af => .pushAf

/-- `POP qq` (R151, R152). -/
def popInstr : Pair → Instr
  | .bc => .popBc
  | .de => .popDe
  | .hl => .popHl
  | .af => .popAf

/-! ### What an instruction reads, writes and stores to (spec/10_state.md R28) -/

/-- The registers of R28 but for `pc`, which every fetch and nothing else reads and writes. -/
inductive RegName where
  | a
  | b
  | c
  | d
  | e
  | h
  | l
  | f
  | sp
deriving DecidableEq, Repr

/-- The value of a register, an 8-bit one zero-extended. -/
def valueOf (s : State) : RegName → Word
  | .a => s.a.setWidth 16
  | .b => s.b.setWidth 16
  | .c => s.c.setWidth 16
  | .d => s.d.setWidth 16
  | .e => s.e.setWidth 16
  | .h => s.h.setWidth 16
  | .l => s.l.setWidth 16
  | .f => s.f.setWidth 16
  | .sp => s.sp

/-- The state with a register at another value, an 8-bit one at the value's low byte. -/
def withReg (s : State) (q : RegName) (v : Word) : State :=
  match q with
  | .a => { s with a := lo8 v }
  | .b => { s with b := lo8 v }
  | .c => { s with c := lo8 v }
  | .d => { s with d := lo8 v }
  | .e => { s with e := lo8 v }
  | .h => { s with h := lo8 v }
  | .l => { s with l := lo8 v }
  | .f => { s with f := lo8 v }
  | .sp => { s with sp := v }

/-- The registers an instruction writes (R28, "written by"). -/
def writes : Instr → List RegName
  | .nop | .ldAtBcA | .ldAtA16Sp _ | .stop | .ldAtDeA | .ldAtHlN8 _ | .ldAtHlB | .ldAtHlC | .ldAtHlD
  | .ldAtHlE | .ldAtHlH | .ldAtHlL | .ldAtHlA | .ldhAtA8A _ | .ldhAtCA | .ldAtA16A _
    => []
  | .ldBcN16 _
    => [.b, .c]
  | .ldBN8 _ | .ldBB | .ldBC | .ldBD | .ldBE | .ldBH | .ldBL | .ldBAtHl | .ldBA
    => [.b]
  | .ldAAtBc | .ldAAtDe | .ldAN8 _ | .ldAB | .ldAC | .ldAD | .ldAE | .ldAH | .ldAL | .ldAAtHl | .ldAA
  | .ldhAAtA8 _ | .ldhAAtC | .ldAAtA16 _
    => [.a]
  | .ldCN8 _ | .ldCB | .ldCC | .ldCD | .ldCE | .ldCH | .ldCL | .ldCAtHl | .ldCA
    => [.c]
  | .ldDeN16 _
    => [.d, .e]
  | .ldDN8 _ | .ldDB | .ldDC | .ldDD | .ldDE | .ldDH | .ldDL | .ldDAtHl | .ldDA
    => [.d]
  | .ldEN8 _ | .ldEB | .ldEC | .ldED | .ldEE | .ldEH | .ldEL | .ldEAtHl | .ldEA
    => [.e]
  | .ldHlN16 _ | .ldAtHlIncA | .ldAtHlDecA
    => [.h, .l]
  | .ldHN8 _ | .ldHB | .ldHC | .ldHD | .ldHE | .ldHH | .ldHL | .ldHAtHl | .ldHA
    => [.h]
  | .ldAAtHlInc | .ldAAtHlDec
    => [.a, .h, .l]
  | .ldLN8 _ | .ldLB | .ldLC | .ldLD | .ldLE | .ldLH | .ldLL | .ldLAtHl | .ldLA
    => [.l]
  | .ldSpN16 _ | .pushBc | .pushDe | .pushHl | .pushAf | .ldSpHl
    => [.sp]
  | .popBc
    => [.b, .c, .sp]
  | .popDe
    => [.d, .e, .sp]
  | .popHl
    => [.h, .l, .sp]
  | .popAf
    => [.a, .f, .sp]

/-- The registers an instruction reads (R28, "read by"). -/
def reads : Instr → List RegName
  | .nop | .ldBcN16 _ | .ldBN8 _ | .ldCN8 _ | .stop | .ldDeN16 _ | .ldDN8 _ | .ldEN8 _ | .ldHlN16 _
  | .ldHN8 _ | .ldLN8 _ | .ldSpN16 _ | .ldAN8 _ | .ldhAAtA8 _ | .ldAAtA16 _
    => []
  | .ldAtBcA
    => [.a, .b, .c]
  | .ldAtA16Sp _ | .popBc | .popDe | .popHl | .popAf
    => [.sp]
  | .ldAAtBc
    => [.b, .c]
  | .ldAtDeA
    => [.a, .d, .e]
  | .ldAAtDe
    => [.d, .e]
  | .ldAtHlIncA | .ldAtHlDecA | .ldAtHlA
    => [.a, .h, .l]
  | .ldAAtHlInc | .ldAtHlN8 _ | .ldAAtHlDec | .ldBAtHl | .ldCAtHl | .ldDAtHl | .ldEAtHl | .ldHAtHl | .ldLAtHl
  | .ldAtHlH | .ldAtHlL | .ldAAtHl | .ldSpHl
    => [.h, .l]
  | .ldBB | .ldCB | .ldDB | .ldEB | .ldHB | .ldLB | .ldAB
    => [.b]
  | .ldBC | .ldCC | .ldDC | .ldEC | .ldHC | .ldLC | .ldAC | .ldhAAtC
    => [.c]
  | .ldBD | .ldCD | .ldDD | .ldED | .ldHD | .ldLD | .ldAD
    => [.d]
  | .ldBE | .ldCE | .ldDE | .ldEE | .ldHE | .ldLE | .ldAE
    => [.e]
  | .ldBH | .ldCH | .ldDH | .ldEH | .ldHH | .ldLH | .ldAH
    => [.h]
  | .ldBL | .ldCL | .ldDL | .ldEL | .ldHL | .ldLL | .ldAL
    => [.l]
  | .ldBA | .ldCA | .ldDA | .ldEA | .ldHA | .ldLA | .ldAA | .ldhAtA8A _ | .ldAtA16A _
    => [.a]
  | .ldAtHlB
    => [.b, .h, .l]
  | .ldAtHlC
    => [.c, .h, .l]
  | .ldAtHlD
    => [.d, .h, .l]
  | .ldAtHlE
    => [.e, .h, .l]
  | .pushBc
    => [.b, .c, .sp]
  | .pushDe
    => [.d, .e, .sp]
  | .ldhAtCA
    => [.a, .c]
  | .pushHl
    => [.h, .l, .sp]
  | .pushAf
    => [.a, .f, .sp]

/-- The addresses an instruction stores to, in order, on the state it executes on (spec/20_memory.md R55). -/
def targets (s : State) : Instr → List Word
  | .ldAtBcA
    => [s.pair .bc]
  | .ldAtA16Sp n
    => [n, n + 1#16]
  | .ldAtDeA
    => [s.pair .de]
  | .ldAtHlIncA | .ldAtHlDecA | .ldAtHlN8 _ | .ldAtHlB | .ldAtHlC | .ldAtHlD | .ldAtHlE | .ldAtHlH | .ldAtHlL
  | .ldAtHlA
    => [s.pair .hl]
  | .pushBc | .pushDe | .pushHl | .pushAf
    => [s.sp - 1#16, s.sp - 2#16]
  | .ldhAtA8A n
    => [portAddress n]
  | .ldhAtCA
    => [portAddress s.c]
  | .ldAtA16A n
    => [n]
  | .nop | .ldBcN16 _ | .ldBN8 _ | .ldAAtBc | .ldCN8 _ | .stop | .ldDeN16 _ | .ldDN8 _ | .ldAAtDe | .ldEN8 _
  | .ldHlN16 _ | .ldHN8 _ | .ldAAtHlInc | .ldLN8 _ | .ldSpN16 _ | .ldAAtHlDec | .ldAN8 _ | .ldBB | .ldBC
  | .ldBD | .ldBE | .ldBH | .ldBL | .ldBAtHl | .ldBA | .ldCB | .ldCC | .ldCD | .ldCE | .ldCH | .ldCL | .ldCAtHl
  | .ldCA | .ldDB | .ldDC | .ldDD | .ldDE | .ldDH | .ldDL | .ldDAtHl | .ldDA | .ldEB | .ldEC | .ldED | .ldEE
  | .ldEH | .ldEL | .ldEAtHl | .ldEA | .ldHB | .ldHC | .ldHD | .ldHE | .ldHH | .ldHL | .ldHAtHl | .ldHA | .ldLB
  | .ldLC | .ldLD | .ldLE | .ldLH | .ldLL | .ldLAtHl | .ldLA | .ldAB | .ldAC | .ldAD | .ldAE | .ldAH | .ldAL
  | .ldAAtHl | .ldAA | .popBc | .popDe | .popHl | .ldhAAtA8 _ | .popAf | .ldhAAtC | .ldSpHl | .ldAAtA16 _
    => []

/-- The bytes an instruction stores, one for each of its `targets` in the same order (R104 and its like, R141, R150). -/
def storedBytes (s : State) : Instr → List Byte
  | .ldAtBcA | .ldAtDeA | .ldAtHlIncA | .ldAtHlDecA | .ldAtHlA | .ldhAtA8A _ | .ldhAtCA | .ldAtA16A _
    => [s.a]
  | .ldAtA16Sp _
    => [lo8 s.sp, hi8 s.sp]
  | .ldAtHlN8 n
    => [n]
  | .ldAtHlB
    => [s.b]
  | .ldAtHlC
    => [s.c]
  | .ldAtHlD
    => [s.d]
  | .ldAtHlE
    => [s.e]
  | .ldAtHlH
    => [s.h]
  | .ldAtHlL
    => [s.l]
  | .pushBc
    => [s.b, s.c]
  | .pushDe
    => [s.d, s.e]
  | .pushHl
    => [s.h, s.l]
  | .pushAf
    => [s.a, s.f]
  | .nop | .ldBcN16 _ | .ldBN8 _ | .ldAAtBc | .ldCN8 _ | .stop | .ldDeN16 _ | .ldDN8 _ | .ldAAtDe | .ldEN8 _
  | .ldHlN16 _ | .ldHN8 _ | .ldAAtHlInc | .ldLN8 _ | .ldSpN16 _ | .ldAAtHlDec | .ldAN8 _ | .ldBB | .ldBC
  | .ldBD | .ldBE | .ldBH | .ldBL | .ldBAtHl | .ldBA | .ldCB | .ldCC | .ldCD | .ldCE | .ldCH | .ldCL | .ldCAtHl
  | .ldCA | .ldDB | .ldDC | .ldDD | .ldDE | .ldDH | .ldDL | .ldDAtHl | .ldDA | .ldEB | .ldEC | .ldED | .ldEE
  | .ldEH | .ldEL | .ldEAtHl | .ldEA | .ldHB | .ldHC | .ldHD | .ldHE | .ldHH | .ldHL | .ldHAtHl | .ldHA | .ldLB
  | .ldLC | .ldLD | .ldLE | .ldLH | .ldLL | .ldLAtHl | .ldLA | .ldAB | .ldAC | .ldAD | .ldAE | .ldAH | .ldAL
  | .ldAAtHl | .ldAA | .popBc | .popDe | .popHl | .ldhAAtA8 _ | .popAf | .ldhAAtC | .ldSpHl | .ldAAtA16 _
    => []

/-- The address whose byte an address reads: the echo range reads WRAM (spec/20_memory.md R45). -/
def unEcho (addr : Word) : Nat :=
  if 0xE000 ≤ addr.toNat ∧ addr.toNat < 0xFE00 then addr.toNat - 0x2000 else addr.toNat

/-- The instructions of R171 that can raise `InvalidAddress` on a data read. -/
def readsData : Instr → Bool
  | .ldAAtBc | .ldAAtDe | .ldAAtHlInc | .ldAAtHlDec | .ldBAtHl | .ldCAtHl | .ldDAtHl | .ldEAtHl | .ldHAtHl
  | .ldLAtHl | .ldAAtHl | .popBc | .popDe | .popHl | .ldhAAtA8 _ | .popAf | .ldhAAtC | .ldAAtA16 _
    => true
  | .nop | .ldBcN16 _ | .ldAtBcA | .ldBN8 _ | .ldAtA16Sp _ | .ldCN8 _ | .stop | .ldDeN16 _ | .ldAtDeA
  | .ldDN8 _ | .ldEN8 _ | .ldHlN16 _ | .ldAtHlIncA | .ldHN8 _ | .ldLN8 _ | .ldSpN16 _ | .ldAtHlDecA
  | .ldAtHlN8 _ | .ldAN8 _ | .ldBB | .ldBC | .ldBD | .ldBE | .ldBH | .ldBL | .ldBA | .ldCB | .ldCC | .ldCD
  | .ldCE | .ldCH | .ldCL | .ldCA | .ldDB | .ldDC | .ldDD | .ldDE | .ldDH | .ldDL | .ldDA | .ldEB | .ldEC
  | .ldED | .ldEE | .ldEH | .ldEL | .ldEA | .ldHB | .ldHC | .ldHD | .ldHE | .ldHH | .ldHL | .ldHA | .ldLB
  | .ldLC | .ldLD | .ldLE | .ldLH | .ldLL | .ldLA | .ldAtHlB | .ldAtHlC | .ldAtHlD | .ldAtHlE | .ldAtHlH
  | .ldAtHlL | .ldAtHlA | .ldAB | .ldAC | .ldAD | .ldAE | .ldAH | .ldAL | .ldAA | .pushBc | .pushDe
  | .ldhAtA8A _ | .ldhAtCA | .pushHl | .ldAtA16A _ | .pushAf | .ldSpHl
    => false

/-- The instructions of R171 that can raise `ProhibitedAccess`: every storing one but the LDH forms. -/
def mayEcho : Instr → Bool
  | .ldAtBcA | .ldAtA16Sp _ | .ldAtDeA | .ldAtHlIncA | .ldAtHlDecA | .ldAtHlN8 _ | .ldAtHlB | .ldAtHlC
  | .ldAtHlD | .ldAtHlE | .ldAtHlH | .ldAtHlL | .ldAtHlA | .pushBc | .pushDe | .pushHl | .ldAtA16A _
  | .pushAf
    => true
  | .nop | .ldBcN16 _ | .ldBN8 _ | .ldAAtBc | .ldCN8 _ | .stop | .ldDeN16 _ | .ldDN8 _ | .ldAAtDe | .ldEN8 _
  | .ldHlN16 _ | .ldHN8 _ | .ldAAtHlInc | .ldLN8 _ | .ldSpN16 _ | .ldAAtHlDec | .ldAN8 _ | .ldBB | .ldBC
  | .ldBD | .ldBE | .ldBH | .ldBL | .ldBAtHl | .ldBA | .ldCB | .ldCC | .ldCD | .ldCE | .ldCH | .ldCL | .ldCAtHl
  | .ldCA | .ldDB | .ldDC | .ldDD | .ldDE | .ldDH | .ldDL | .ldDAtHl | .ldDA | .ldEB | .ldEC | .ldED | .ldEE
  | .ldEH | .ldEL | .ldEAtHl | .ldEA | .ldHB | .ldHC | .ldHD | .ldHE | .ldHH | .ldHL | .ldHAtHl | .ldHA | .ldLB
  | .ldLC | .ldLD | .ldLE | .ldLH | .ldLL | .ldLAtHl | .ldLA | .ldAB | .ldAC | .ldAD | .ldAE | .ldAH | .ldAL
  | .ldAAtHl | .ldAA | .popBc | .popDe | .ldhAtA8A _ | .popHl | .ldhAtCA | .ldhAAtA8 _ | .popAf | .ldhAAtC
  | .ldSpHl | .ldAAtA16 _
    => false

/-- The bit patterns of R79: whether an opcode byte is admitted. -/
def admitted (op : Byte) : Bool :=
  let x := op.extractLsb' 6 2
  let y := op.extractLsb' 3 3
  let z := op.extractLsb' 0 3
  (x == 1#2 && !(y == 6#3 && z == 6#3))                                   -- 01 ddd sss, but not 01 110 110
    || (x == 0#2 && (z == 6#3 || z == 2#3))                               -- 00 ddd 110, 00 110 110, 00 xx x010
    || (x == 0#2 && z == 1#3 && y.extractLsb' 0 1 == 0#1)                 -- 00 dd 0001
    || (x == 3#2 && (z == 5#3 || z == 1#3) && y.extractLsb' 0 1 == 0#1)   -- 11 qq 0101, 11 qq 0001
    || op == 0x00#8 || op == 0x10#8 || op == 0x08#8 || op == 0xF9#8
    || op == 0xEA#8 || op == 0xFA#8 || op == 0xE0#8 || op == 0xF0#8 || op == 0xE2#8 || op == 0xF2#8

/-! ### Shapes of statements -/

/-- `bytes` at `pc` of an unfaulted core are fetched, `pc` moves past them, `i` is executed, and a step that raises
nothing returns `cycles`. A fetch that fails latches its error with `pc` at the failing address, whatever part of
`bytes` was fetched before (spec/30_encoding.md R71-R73, spec/60_exceptions.md R172, R174). -/
def RunsFrom (i : Instr) (bytes : List Byte) (cycles : Nat) : Prop :=
  (∀ s : State, s.fault = none → holdsAt s.mem s.pc bytes = true →
    step s = exec i (s.setPc (s.pc + BitVec.ofNat 16 bytes.length)) ∧
      ∀ t, step s = .next t → stepReturn s = some (t.returns cycles)) ∧
  (∀ (s : State) (k : Nat) (e : CoreError), s.fault = none → k < bytes.length →
    holdsAt s.mem s.pc (bytes.take k) = true → s.mem.read (s.pc + BitVec.ofNat 16 k) = .error e →
      step s = .next ((s.setPc (s.pc + BitVec.ofNat 16 k)).latch e) ∧ stepReturn s = some (.err e))

/-- `i` reads the byte at `addr`; then `after` of it is the next state, or the error is latched and nothing else
happens. -/
def LoadsFrom (i : Instr) (addr : State → Word) (after : State → Byte → State) : Prop :=
  ∀ s : State,
    (∀ v, s.mem.read (addr s) = .ok v → exec i s = .next (after s v)) ∧
      ∀ e, s.mem.read (addr s) = .error e → exec i s = .next (s.latch e)

/-- `i` writes `value` at `addr`; then `after` of the state with the byte stored is the next state, or the error is
latched and nothing else happens. -/
def StoresTo (i : Instr) (addr : State → Word) (value : State → Byte) (after : State → State) : Prop :=
  ∀ s : State,
    (∀ m, s.mem.write (addr s) (value s) = .ok m → exec i s = .next (after (s.setMem m))) ∧
      ∀ e, s.mem.write (addr s) (value s) = .error e → exec i s = .next (s.latch e)

/-- The sum of the cycles that `n` steps in a row return; none where one of them returns no cycles
(spec/70_reset_and_hazards.md R196, R198). -/
def totalCycles : Nat → State → Option Nat
  | 0, _ => some 0
  | n + 1, s =>
    match step s, stepReturn s with
    | .next t, some (.ok cycles) => (totalCycles n t).map (cycles + ·)
    | _, _ => none

/-- No state of the first `n` that the core stands in from `s` on is at STOP_PC with the latch clear (R196). -/
def NotEndedBefore (stopPc : Word) (n : Nat) (s : State) : Prop :=
  ∀ (k : Nat) (u : State), k < n → core.run k s = .next u → ¬(u.pc = stopPc ∧ u.fault = none)

end Sys2Proof.Claims

open Sys2Proof Sys2Proof.Machine Sys2Proof.Claims

/-- The power-on value of every element of the state, for every draw of INIT_RAM (10_state.md section 7 (R33)).
The clear latch, the empty cartridge and the open draw are the spec's own decisions (log entries 1, 14 and 20). -/
def Obligations.PowerOnStateForEveryDraw : Prop :=
  ∀ ram : InitRam,
    let s := State.powerOn ram
    (s.a = 0x01#8 ∧ s.f = 0xB0#8 ∧ s.b = 0x00#8 ∧ s.c = 0x13#8 ∧ s.d = 0x00#8 ∧ s.e = 0xD8#8 ∧ s.h = 0x01#8 ∧
      s.l = 0x4D#8 ∧ s.sp = 0xFFFE#16 ∧ s.pc = 0x0100#16 ∧ s.fault = none) ∧
    (s.pair .af = 0x01B0#16 ∧ s.pair .bc = 0x0013#16 ∧ s.pair .de = 0x00D8#16 ∧ s.pair .hl = 0x014D#16) ∧
    (s.flagZ = true ∧ s.flagN = false ∧ s.flagH = true ∧ s.flagC = true) ∧
    (s.mem.cart = [] ∧ s.mem.cartLen = 0) ∧
    (∀ k, k < 0x2000 → ∀ v, ram.vram[k]? = some v → s.mem.read (0x8000#16 + BitVec.ofNat 16 k) = .ok v) ∧
    (∀ k, k < 0x2000 → ∀ v, ram.wram[k]? = some v → s.mem.read (0xC000#16 + BitVec.ofNat 16 k) = .ok v) ∧
    (∀ k, k < 0xA0 → ∀ v, ram.oam[k]? = some v → s.mem.read (0xFE00#16 + BitVec.ofNat 16 k) = .ok v) ∧
    (∀ k, k < 0x7F → ∀ v, ram.hram[k]? = some v → s.mem.read (0xFF80#16 + BitVec.ofNat 16 k) = .ok v) ∧
    ∃ draw, State.reset = State.powerOn draw

/-- A host-requested reset gives the power-on state with the loaded cartridge (that it keeps the cartridge is
log entry 5) (70_reset_and_hazards.md section 1 (R190), 60_exceptions.md section 2 (R173), 92_eei_decisions.md
D11). -/
def Obligations.HostResetKeepsCartridgeAndClearsLatch : Prop :=
  ∀ (s : State) (ram : InitRam),
    let t := s.hostReset ram
    let p := State.powerOn ram
    t.fault = none ∧ t.pc = 0x0100#16 ∧ t.sp = 0xFFFE#16 ∧ (∀ q, valueOf t q = valueOf p q) ∧
      t.mem.vram = p.mem.vram ∧ t.mem.wram = p.mem.wram ∧ t.mem.oam = p.mem.oam ∧ t.mem.hram = p.mem.hram ∧
      t.mem.cart = s.mem.cart ∧ t.mem.cartLen = s.mem.cartLen

/-- Load replaces the cartridge contents and its length and changes nothing else; a failed load changes nothing
(20_memory.md section 7 (R61)). That a load changes nothing else is the spec's own decision D11; how a failed
load is modelled is log entry 18. -/
def Obligations.LoadReplacesOnlyTheCartridge : Prop :=
  ∀ s : State,
    (∀ image : List Byte, ∃ t, s.loadCartridge (some image) = .ok t ∧
      t.mem.cartLen = image.length ∧ (∀ k v, image[k]? = some v → t.mem.cart.get k = v) ∧
      (∀ q, valueOf t q = valueOf s q) ∧ t.pc = s.pc ∧ t.fault = s.fault ∧
      t.mem.vram = s.mem.vram ∧ t.mem.wram = s.mem.wram ∧ t.mem.oam = s.mem.oam ∧ t.mem.hram = s.mem.hram) ∧
    s.loadCartridge none = .error .ioFailure

/-- After power-on and Load the first fetch raises InvalidAddress(0x0100, read) unless CART_LEN > 0x0100
(70_reset_and_hazards.md section 2 (R192)). That an access past the image raises is the spec's own decision
(log entry 14). -/
def Obligations.FirstStepNeedsACartridgePastTheEntry : Prop :=
  ∀ ram : InitRam,
    step (State.powerOn ram) = .next ((State.powerOn ram).latch (.invalidAddress 0x0100#16 .read)) ∧
    ∀ image : List Byte,
      let s := (State.powerOn ram).loadImage image
      (image.length ≤ 0x100 → step s = .next (s.latch (.invalidAddress 0x0100#16 .read))) ∧
      ∀ v, image[0x100]? = some v → s.fetchByte = .ok (v, s.setPc 0x0101#16)

/-- The cartridge title is the bytes of its window up to the first zero byte or 16 bytes (20_memory.md section
7 (R63), 95_test_vectors.md T17). -/
def Obligations.TitleStopsAtZeroOrSixteenBytes : Prop :=
  ∀ m : Memory, 0x144 ≤ m.cartLen → ∃ title : List Byte, m.title = some title ∧ title.length ≤ 16 ∧
    (∀ k v, title[k]? = some v → v = m.cart.get (0x134 + k) ∧ v ≠ 0#8) ∧
    (title.length < 16 → m.cart.get (0x134 + title.length) = 0#8)

/-- pair composes two fields high byte first; setpair splits its value, masks f for af, and pair reads it back
(R23, R24). -/
def Obligations.PairSettersSplitAndMask : Prop :=
  ∀ (s : State) (v : Word),
    s.pair .af = cat16 s.a s.f ∧ s.pair .bc = cat16 s.b s.c ∧ s.pair .de = cat16 s.d s.e ∧ s.pair .hl = cat16 s.h s.l ∧
    s.setPair .af v = { s with a := hi8 v, f := lo8 v &&& 0xF0#8 } ∧
    s.setPair .bc v = { s with b := hi8 v, c := lo8 v } ∧
    s.setPair .de v = { s with d := hi8 v, e := lo8 v } ∧
    s.setPair .hl v = { s with h := hi8 v, l := lo8 v } ∧
    (s.setPair .bc v).pair .bc = v ∧ (s.setPair .de v).pair .de = v ∧ (s.setPair .hl v).pair .hl = v ∧
    (s.setPair .af v).pair .af = v &&& 0xFFF0#16

/-- HLinc and HLdec add and subtract 1 on the pair view, modulo 2^16 (R25). -/
def Obligations.HlStepsWrapAtSixteenBits : Prop :=
  ∀ s : State,
    (s.incHl.pair .hl).toNat = ((s.pair .hl).toNat + 1) % 0x10000 ∧
    (s.decHl.pair .hl).toNat = ((s.pair .hl).toNat + 0xFFFF) % 0x10000 ∧
    (s.pair .hl = 0xFFFF#16 → s.incHl.pair .hl = 0x0000#16) ∧
    (s.pair .hl = 0x0000#16 → s.decHl.pair .hl = 0xFFFF#16) ∧
    s.incHl = { s with h := s.incHl.h, l := s.incHl.l } ∧ s.decHl = { s with h := s.decHl.h, l := s.decHl.l }

/-- MemRead reaches the store and index the region table gives, or raises InvalidAddress (R50). -/
def Obligations.ReadFollowsTheRegionTable : Prop :=
  ∀ (m : Memory) (addr : Word),
    let n := addr.toNat
    ((n < 0x8000 ∨ (0xA000 ≤ n ∧ n < 0xC000)) →
      (m.cartLen ≤ n → m.read addr = .error (.invalidAddress addr .read)) ∧
      (n < m.cartLen → m.read addr = .ok (m.cart.get n))) ∧
    (0x8000 ≤ n ∧ n < 0xA000 → m.read addr = .ok (m.vram.get (n - 0x8000))) ∧
    (0xC000 ≤ n ∧ n < 0xE000 → m.read addr = .ok (m.wram.get (n - 0xC000))) ∧
    (0xE000 ≤ n ∧ n < 0xFE00 → m.read addr = .ok (m.wram.get (n - 0xE000))) ∧
    (0xFE00 ≤ n ∧ n < 0xFEA0 → m.read addr = .ok (m.oam.get (n - 0xFE00))) ∧
    (0xFF80 ≤ n ∧ n < 0xFFFF → m.read addr = .ok (m.hram.get (n - 0xFF80))) ∧
    ((0xFEA0 ≤ n ∧ n < 0xFF80) ∨ n = 0xFFFF → m.read addr = .error (.invalidAddress addr .read))

/-- MemWrite changes one byte of the store the region table gives, or raises and changes nothing (R51). -/
def Obligations.WriteFollowsTheRegionTable : Prop :=
  ∀ (m : Memory) (addr : Word) (v : Byte), m.wf = true →
    let n := addr.toNat
    let writesByte := fun (id : StoreId) (k : Nat) => ∃ m', m.write addr v = .ok m' ∧ m'.cartLen = m.cartLen ∧
      ∀ j q, (m'.store j).get q = if j = id ∧ q = k then v else (m.store j).get q
    ((n < 0x8000 ∨ (0xA000 ≤ n ∧ n < 0xC000)) →
      (m.cartLen ≤ n → m.write addr v = .error (.invalidAddress addr .write)) ∧
      (n < m.cartLen → writesByte .cart n)) ∧
    (0x8000 ≤ n ∧ n < 0xA000 → writesByte .vram (n - 0x8000)) ∧
    (0xC000 ≤ n ∧ n < 0xE000 → writesByte .wram (n - 0xC000)) ∧
    (0xE000 ≤ n ∧ n < 0xFE00 → m.write addr v = .error (.prohibitedAccess addr)) ∧
    (0xFE00 ≤ n ∧ n < 0xFEA0 → writesByte .oam (n - 0xFE00)) ∧
    (0xFF80 ≤ n ∧ n < 0xFFFF → writesByte .hram (n - 0xFF80)) ∧
    ((0xFEA0 ≤ n ∧ n < 0xFF80) ∨ n = 0xFFFF → m.write addr v = .error (.invalidAddress addr .write))

/-- A read at 0xE000 + k returns the same byte as a read at 0xC000 + k (R45). -/
def Obligations.EchoReadsMirrorWorkingMemory : Prop :=
  ∀ (m : Memory) (k : Nat), k < 0x1E00 →
    m.read (0xE000#16 + BitVec.ofNat 16 k) = .ok (m.wram.get k) ∧
      m.read (0xE000#16 + BitVec.ofNat 16 k) = m.read (0xC000#16 + BitVec.ofNat 16 k)

/-- A stored byte is read back at its address and its echo alias, and no other address reads differently
(20_memory.md section 6 (R58), 20_memory.md section 2 (R45), 95_test_vectors.md T13). The canonical form that
the hypothesis asks of memory is the model's own (log entry 1). -/
def Obligations.WriteThenReadByAddress : Prop :=
  ∀ (m m' : Memory) (addr : Word) (v : Byte), m.wf = true → m.write addr v = .ok m' →
    (∀ x, unEcho x = unEcho addr → m'.read x = .ok v) ∧ (∀ x, unEcho x ≠ unEcho addr → m'.read x = m.read x)

/-- Two canonical memories whose stores read alike are equal (the canonical form is the model's, log entry 1)
(10_state.md section 6 (R32)). -/
def Obligations.MemoryDataIsItsReads : Prop :=
  ∀ m n : Memory, m.wf = true → n.wf = true → m.cartLen = n.cartLen →
    (∀ id k, k < m.size id → (m.store id).get k = (n.store id).get k) → m = n

/-- Decoding the encoding of any instruction gives it back, with the bytes after it (30_encoding.md section 1
(R70, R73), 30_encoding.md section 4 (R80)). -/
def Obligations.DecodeOfEncode : Prop :=
  ∀ (i : Instr) (rest : List Byte), i.wf = true → decode (encode i ++ rest) = .ok (i, rest)

/-- Each instruction has one encoding: what decodes to it is its encoding (30_encoding.md section 1 (R70, R73),
30_encoding.md section 3 (R78)). -/
def Obligations.EncodeOfDecode : Prop :=
  ∀ (bytes : List Byte) (i : Instr) (rest : List Byte), decode bytes = .ok (i, rest) →
    bytes = encode i ++ rest ∧ i.wf = true

/-- Every opcode byte decodes to one instruction of a fixed length or to UnsupportedOpcode (30_encoding.md
section 3 (R78)). Which bytes are admitted is the spec's own decision (log entries 4 and 21). -/
def Obligations.DecodingIsTotalByOpcode : Prop :=
  ∀ op : Byte,
    (∀ rest, decode (op :: rest) = .error (.unsupportedOpcode op)) ∨
      ∃ n, n ≤ 2 ∧ ∀ rest : List Byte,
        (n ≤ rest.length → ∃ i : Instr, i.opcode = op ∧ i.length = 1 + n ∧ decode (op :: rest) = .ok (i, rest.drop n)) ∧
        (rest.length < n → decode (op :: rest) = .error .truncated)

/-- Words written out from the bit patterns of R79 decode to the instructions they stand for (30_encoding.md
section 4 (R79, R80), 95_test_vectors.md section 3). The opcode bytes are the spec's own choice (log entry 4). -/
def Obligations.SampleWordsDecode : Prop :=
  decode [0b00000000#8] = .ok (.nop, []) ∧
    decode [0b01000001#8] = .ok (.ldBC, []) ∧
    decode [0b01110111#8] = .ok (.ldAtHlA, []) ∧
    decode [0b00111110#8, 0x42#8] = .ok (.ldAN8 0x42#8, []) ∧
    decode [0b00100001#8, 0x34#8, 0x12#8] = .ok (.ldHlN16 0x1234#16, []) ∧
    decode [0b11100000#8, 0x81#8] = .ok (.ldhAtA8A 0x81#8, []) ∧
    decode [0b11010101#8, 0x00#8] = .ok (.pushDe, [0x00#8]) ∧
    decode [0b11110001#8] = .ok (.popAf, []) ∧
    decode [0b01110110#8] = .error (.unsupportedOpcode 0x76#8) ∧
    decode [0xCB#8, 0x00#8] = .error (.unsupportedOpcode 0xCB#8)

/-- FetchByte reads through the bus at pc and then advances it; FetchPointer fetches the low byte, then the
high byte (30_encoding.md section 1 (R72, R73), 60_exceptions.md section 2 (R172)). That a failed fetch sets
the latch and returns Err is R172's, a decision of the spec's own (D5, log entry 20), in the model's form (log
entry 2). -/
def Obligations.FetchesAdvancePcByteByByte : Prop :=
  ∀ s : State,
    (∀ v, s.mem.read s.pc = .ok v → s.fetchByte = .ok (v, { s with pc := s.pc + 1#16 })) ∧
    (∀ e, s.mem.read s.pc = .error e → e = .invalidAddress s.pc .read ∧ s.fetchByte = .error e ∧
      (s.fault = none → step s = .next { s with fault := some e })) ∧
    (∀ lo hi, s.mem.read s.pc = .ok lo → s.mem.read (s.pc + 1#16) = .ok hi →
      s.fetchBytes 2 = .ok ([lo, hi], { s with pc := s.pc + 2#16 }) ∧
      ∀ op mk, opcodeRow op = some (.f2 mk) → decode [op, lo, hi] = .ok (mk (cat16 hi lo), []))

/-- When the bytes at pc decode to an instruction, step is exec of it with pc past its bytes (30_encoding.md
section 1 (R71-R73)). -/
def Obligations.StepRunsTheDecodedInstruction : Prop :=
  ∀ (s : State) (bytes rest : List Byte) (i : Instr), s.fault = none → holdsAt s.mem s.pc bytes = true →
    decode bytes = .ok (i, rest) → i.wf = true →
      step s = exec i (s.setPc (s.pc + BitVec.ofNat 16 (bytes.length - rest.length)))

/-- 155 opcode bytes are unsupported; executing one latches UnsupportedOpcode(op) with pc advanced by 1 and
nothing else changed (30_encoding.md section 3 (R77)). Which bytes are admitted, and the latch, are the spec's
own decisions (log entries 4, 20 and 21). -/
def Obligations.UnsupportedOpcodeLatchesAfterItsFetch : Prop :=
  ((List.range 256).countP (fun n => !admitted (BitVec.ofNat 8 n)) = 155) ∧
    (∀ op : Byte, admitted op = false ↔ opcodeRow op = none) ∧
    ∀ (s : State) (op : Byte), s.fault = none → s.mem.read s.pc = .ok op → admitted op = false →
      step s = .next { s with pc := s.pc + 1#16, fault := some (.unsupportedOpcode op) } ∧
        stepReturn s = some (.err (.unsupportedOpcode op))

/-- While the latch is set, step executes nothing and returns the latched error; only reset clears it; no run
ends in it (60_exceptions.md section 2 (R173)). The sticky latch is the spec's own decision D5 (log entry 20);
the model's form of it is log entry 2. -/
def Obligations.FaultedCoreExecutesNothing : Prop :=
  (∀ (s : State) (e : CoreError), s.fault = some e →
    step s = .fault (.latched e) ∧ stepReturn s = some (.err e) ∧
    (∀ image, (s.loadImage image).fault = some e) ∧ (∀ ram, (s.hostReset ram).fault = none) ∧
    ∀ stopPc fuel t steps cycles, run stopPc fuel s ≠ .ended t steps cycles) ∧
  (∀ (s t : State) (stopPc : Word) (fuel steps cycles : Nat),
    run stopPc fuel s = .ended t steps cycles → t.fault = none)

/-- A core whose latch is clear always answers a next state and a return value (30_encoding.md section 1 (R71),
60_exceptions.md section 2 (R172)). That a raise is a next state is the model's form (log entries 2 and 3). -/
def Obligations.UnfaultedCoreAlwaysSteps : Prop :=
  ∀ s : State, s.fault = none → ∃ t, step s = .next t ∧
    (t.fault = none → ∃ n, stepReturn s = some (.ok n) ∧ 1 ≤ n ∧ n ≤ 5) ∧
    (∀ e, t.fault = some e → stepReturn s = some (.err e))

/-- pc changes only by fetching: an instruction that raises nothing advances pc by its length (10_state.md
section 2 (R26), 43_misc.md (R162)). -/
def Obligations.PcMovesOnlyBySequentialFetch : Prop :=
  ∀ s t : State, step s = .next t →
    (∃ k, k ≤ 3 ∧ t.pc = s.pc + BitVec.ofNat 16 k) ∧
    (t.fault = none → ∃ i : Instr, holdsAt s.mem s.pc (encode i) = true ∧ t.pc = s.pc + BitVec.ofNat 16 i.length)

/-- The cycles a successful step returns depend on the opcode byte at pc alone (30_encoding.md section 1 (R71),
70_reset_and_hazards.md section 5 (R198)). -/
def Obligations.CyclesDependOnTheOpcodeAlone : Prop :=
  ∀ (s s' : State) (op : Byte) (n n' : Nat), s.mem.read s.pc = .ok op → s'.mem.read s'.pc = .ok op →
    stepReturn s = some (.ok n) → stepReturn s' = some (.ok n') → n = n'

/-- The invariant holds at power-on for every draw, and after a load or a reset by the host (10_state.md
section 1 (R22), 10_state.md section 6 (R32)). The canonical form in State.Inv (Memory.wf) is the model's own
(log entry 1, DESIGN CHOICE), and so is the clause that a latched error is genuine: no rule of the spec states
either. -/
def Obligations.InvariantHoldsAtPowerOn : Prop :=
  (∀ ram, (State.powerOn ram).Inv) ∧ State.reset.Inv ∧
    (∀ (s : State) (image : List Byte), s.Inv → s.fault = none → (s.loadImage image).Inv) ∧
    (∀ (s : State) (image : List Byte), s.Inv → (s.loadImage image).fault = s.fault ∧
      (s.loadImage image).f &&& 0x0F#8 = 0#8 ∧ (s.loadImage image).mem.wf = true) ∧
    (∀ (s : State) (ram : InitRam), s.Inv → (s.hostReset ram).Inv)

/-- Every step keeps the invariant: flag low nibble zero, stores canonical and within size, latched error
genuine (10_state.md section 1 (R22), 10_state.md section 6 (R32), 60_exceptions.md section 1 (R170)). The
canonical form in State.Inv (Memory.wf) is the model's own (log entry 1, DESIGN CHOICE), and so is the clause
that a latched error is genuine: no rule of the spec states either. -/
def Obligations.EveryStepKeepsTheInvariant : Prop :=
  ∀ s t : State, s.Inv → step s = .next t → t.Inv

/-- The low nibble of f is zero at power-on and after every step, and only POP AF changes f (10_state.md
section 1 (R22), 42_stack.md (R152), 30_encoding.md section 4 (R80)). That 0xF1 is the opcode of POP AF (R152,
R80) is the spec's own choice from general knowledge (log entry 4). -/
def Obligations.FlagByteChangesOnlyByPopAf : Prop :=
  (∀ ram, (State.powerOn ram).f = 0xB0#8 ∧ (State.powerOn ram).f &&& 0x0F#8 = 0#8) ∧
    (∀ s t : State, step s = .next t → s.f &&& 0x0F#8 = 0#8 → t.f &&& 0x0F#8 = 0#8) ∧
    (∀ s t : State, step s = .next t → t.f ≠ s.f → s.mem.read s.pc = .ok 0xF1#8) ∧
    (∀ (i : Instr) (s t : State), i ≠ .popAf → exec i s = .next t → t.f = s.f) ∧
    (∀ (s : State) (v : Word), (s.setPair .af v).f &&& 0x0F#8 = 0#8)

/-- Loads, moves, POP, NOP, STOP change only their destination registers (and sp for POP), and no byte of
memory (10_state.md section 3 (R28), 20_memory.md section 4 (R55), 60_exceptions.md section 1 (R171)). That a
raise sets the latch and what it leaves are the spec's own decisions (log entries 12 and 20). -/
def Obligations.FrameOfFormsThatStoreNothing : Prop :=
  ∀ (i : Instr) (s t : State), targets s i = [] → exec i s = .next t →
    (∀ q, q ∉ writes i → valueOf t q = valueOf s q) ∧ t.pc = s.pc ∧
    t.mem = s.mem ∧ (∀ x, t.mem.read x = s.mem.read x) ∧
    (t.fault = s.fault ∨ ∃ a, t.fault = some (.invalidAddress a .read))

/-- A one-byte store changes no register but the hl of the HL+ and HL- forms, and no byte but the one stored
(10_state.md section 3 (R28), 20_memory.md section 4 (R55)). That a raise sets the latch and what it leaves are
the spec's own decisions (log entries 12 and 20). -/
def Obligations.FrameOfOneByteStores : Prop :=
  ∀ (i : Instr) (s t : State) (a : Word), targets s i = [a] → exec i s = .next t →
    (∀ q, q ∉ writes i → valueOf t q = valueOf s q) ∧ t.pc = s.pc ∧ t.mem.cartLen = s.mem.cartLen ∧
    (∀ x, unEcho x ≠ unEcho a → t.mem.read x = s.mem.read x) ∧
    (t.fault = s.fault ∨ (t.mem = s.mem ∧
      (t.fault = some (.invalidAddress a .write) ∨ t.fault = some (.prohibitedAccess a))))

/-- PUSH and LD (a16),SP change no register but sp (PUSH), and no byte but the two stored (10_state.md section
3 (R28), 20_memory.md section 4 (R55)). That a raise sets the latch and what it leaves are the spec's own
decisions (log entries 12 and 20). -/
def Obligations.FrameOfTwoByteStores : Prop :=
  ∀ (i : Instr) (s t : State) (a b : Word), targets s i = [a, b] → exec i s = .next t →
    (∀ q, q ∉ writes i → valueOf t q = valueOf s q) ∧ t.pc = s.pc ∧ t.mem.cartLen = s.mem.cartLen ∧
    (∀ x, unEcho x ≠ unEcho a → unEcho x ≠ unEcho b → t.mem.read x = s.mem.read x) ∧
    (t.fault = s.fault ∨ ∃ x, (x = a ∨ x = b) ∧
      (t.fault = some (.invalidAddress x .write) ∨ t.fault = some (.prohibitedAccess x)))

/-- A register that an instruction does not read (R28) has no influence on what it does (10_state.md section 3
(R28)). -/
def Obligations.OutcomeDependsOnReadRegistersAlone : Prop :=
  ∀ (i : Instr) (s t : State) (q : RegName) (v : Word), q ∉ reads i → s.fault = none → exec i s = .next t →
    ∃ u, exec i (withReg s q v) = .next u ∧ u.fault = t.fault ∧ u.mem = t.mem ∧ u.pc = t.pc ∧
      (∀ r, r ≠ q → valueOf u r = valueOf t r) ∧
      (q ∈ writes i → t.fault = none → valueOf u q = valueOf t q) ∧
      (q ∉ writes i → valueOf u q = valueOf (withReg s q v) q)

/-- Executing an instruction raises no error that the table of R171 denies it (60_exceptions.md section 1
(R171)). That a raise sets the latch and what it leaves are the spec's own decisions (log entries 12 and 20). -/
def Obligations.ErrorsEachInstructionCanRaise : Prop :=
  ∀ (i : Instr) (s t : State) (e : CoreError), s.fault = none → exec i s = .next t → t.fault = some e →
    (∀ a, e = .invalidAddress a .read → readsData i = true) ∧
    (∀ a, e = .invalidAddress a .write → a ∈ targets s i) ∧
    (∀ a, e = .prohibitedAccess a → a ∈ targets s i ∧ mayEcho i = true) ∧
    (∀ op, e ≠ .unsupportedOpcode op) ∧ e ≠ .ioFailure

/-- LD r,r' copies the source into the destination in 1 cycle and changes nothing else (40_loads8.md section 1
(R100)). The opcode bytes and operand codes are the spec's own choice from general knowledge (log entry 4). -/
def Obligations.MoveCopiesRegister : Prop :=
  ∀ dst src : Reg8,
    RunsFrom (moveInstr dst src) [BitVec.ofNat 8 (0x40 + 8 * code8 dst + code8 src)] 1 ∧
    ∀ s : State, exec (moveInstr dst src) s = .next (s.setReg dst (s.reg src)) ∧
      (dst = src → exec (moveInstr dst src) s = .next s)

/-- LD r,n8 sets the register to the fetched byte in 2 cycles; a failed operand fetch leaves it unchanged
(40_loads8.md section 2 (R101)). The opcode bytes and operand codes are the spec's own choice from general
knowledge (log entry 4). That a raise sets the latch and what it leaves are the spec's own decisions (log
entries 12 and 20). -/
def Obligations.LoadImmediateSetsRegister : Prop :=
  ∀ (dst : Reg8) (n : Byte),
    RunsFrom (loadImmInstr dst n) [BitVec.ofNat 8 (0x06 + 8 * code8 dst), n] 2 ∧
    ∀ s : State, exec (loadImmInstr dst n) s = .next (s.setReg dst n)

/-- LD (HL),n8 stores the immediate at hl in 3 cycles, hl unchanged, or latches the write error with memory
unchanged (40_loads8.md section 2 (R102)). The opcode bytes and operand codes are the spec's own choice from
general knowledge (log entry 4). That a raise sets the latch and what it leaves are the spec's own decisions
(log entries 12 and 20). -/
def Obligations.StoreImmediateAtHl : Prop :=
  ∀ n : Byte, RunsFrom (.ldAtHlN8 n) [0x36#8, n] 3 ∧
    StoresTo (.ldAtHlN8 n) (fun s => s.pair .hl) (fun _ => n) (fun t => t)

/-- LD r,(HL) loads the byte at the old hl in 2 cycles, or latches the read error with the register unchanged
(40_loads8.md section 3 (R103)). The opcode bytes and operand codes are the spec's own choice from general
knowledge (log entry 4). That a raise sets the latch and what it leaves are the spec's own decisions (log
entries 12 and 20). -/
def Obligations.LoadRegisterFromHl : Prop :=
  ∀ dst : Reg8, RunsFrom (loadHlInstr dst) [BitVec.ofNat 8 (0x46 + 8 * code8 dst)] 2 ∧
    LoadsFrom (loadHlInstr dst) (fun s => s.pair .hl) (fun s v => s.setReg dst v)

/-- LD (HL),r stores the register at hl in 2 cycles, or latches the write error with memory unchanged; 0x76 is
unsupported (40_loads8.md section 3 (R104)). The opcode bytes and operand codes are the spec's own choice from
general knowledge (log entry 4). That a raise sets the latch and what it leaves are the spec's own decisions
(log entries 12 and 20). -/
def Obligations.StoreRegisterAtHl : Prop :=
  (∀ src : Reg8, RunsFrom (storeHlInstr src) [BitVec.ofNat 8 (0x70 + code8 src)] 2 ∧
    StoresTo (storeHlInstr src) (fun s => s.pair .hl) (fun s => s.reg src) (fun t => t)) ∧
  (∀ s : State, s.reg .h = hi8 (s.pair .hl) ∧ s.reg .l = lo8 (s.pair .hl)) ∧ opcodeRow 0x76#8 = none

/-- LD A,(BC) and LD A,(DE) load the accumulator in 2 cycles, or latch the read error with a unchanged
(40_loads8.md section 4 (R105, R106)). The opcode bytes and operand codes are the spec's own choice from
general knowledge (log entry 4). That a raise sets the latch and what it leaves are the spec's own decisions
(log entries 12 and 20). -/
def Obligations.LoadAccumulatorAtBcAndDe : Prop :=
  RunsFrom .ldAAtBc [0x0A#8] 2 ∧ LoadsFrom .ldAAtBc (fun s => s.pair .bc) (fun s v => s.setReg .a v) ∧
    RunsFrom .ldAAtDe [0x1A#8] 2 ∧ LoadsFrom .ldAAtDe (fun s => s.pair .de) (fun s v => s.setReg .a v)

/-- LD (BC),A and LD (DE),A store the accumulator in 2 cycles, or latch the write error with memory unchanged
(40_loads8.md section 4 (R107, R108)). The opcode bytes and operand codes are the spec's own choice from
general knowledge (log entry 4). That a raise sets the latch and what it leaves are the spec's own decisions
(log entries 12 and 20). -/
def Obligations.StoreAccumulatorAtBcAndDe : Prop :=
  RunsFrom .ldAtBcA [0x02#8] 2 ∧ StoresTo .ldAtBcA (fun s => s.pair .bc) (fun s => s.a) (fun t => t) ∧
    RunsFrom .ldAtDeA [0x12#8] 2 ∧ StoresTo .ldAtDeA (fun s => s.pair .de) (fun s => s.a) (fun t => t) ∧
    ∀ s : State, s.pair .de = 0xE000#16 → exec .ldAtDeA s = .next (s.latch (.prohibitedAccess 0xE000#16))

/-- LD A,(a16) loads from the address fetched low byte first in 4 cycles, or latches the error (40_loads8.md
section 5 (R109)). The opcode bytes and operand codes are the spec's own choice from general knowledge (log
entry 4). That a raise sets the latch and what it leaves are the spec's own decisions (log entries 12 and 20). -/
def Obligations.LoadAccumulatorAbsolute : Prop :=
  ∀ n : Word, RunsFrom (.ldAAtA16 n) [0xFA#8, lo8 n, hi8 n] 4 ∧
    LoadsFrom (.ldAAtA16 n) (fun _ => n) (fun s v => s.setReg .a v)

/-- LD (a16),A stores at the address fetched low byte first in 4 cycles, or latches the error (40_loads8.md
section 5 (R110)). The opcode bytes and operand codes are the spec's own choice from general knowledge (log
entry 4). That a raise sets the latch and what it leaves are the spec's own decisions (log entries 12 and 20). -/
def Obligations.StoreAccumulatorAbsolute : Prop :=
  (∀ n : Word, RunsFrom (.ldAtA16A n) [0xEA#8, lo8 n, hi8 n] 4 ∧
    StoresTo (.ldAtA16A n) (fun _ => n) (fun s => s.a) (fun t => t)) ∧
  ∀ s : State, exec (.ldAtA16A 0xFFFF#16) s = .next (s.latch (.invalidAddress 0xFFFF#16 .write))

/-- LDH A,(C) loads hram for c in 0x80..0xFE in 2 cycles; any other c latches InvalidAddress(0xFF00|c, read)
(40_loads8.md section 6 (R111)). The opcode byte and the register c are the spec's own choice (log entry 4).
That a raise sets the latch and what it leaves are the spec's own decisions (log entries 12 and 20). -/
def Obligations.PortLoadByC : Prop :=
  RunsFrom .ldhAAtC [0xF2#8] 2 ∧ ∀ s : State,
    (s.c.toNat < 0x80 ∨ s.c.toNat = 0xFF →
      exec .ldhAAtC s = .next (s.latch (.invalidAddress (0xFF00#16 ||| s.c.setWidth 16) .read))) ∧
    (0x80 ≤ s.c.toNat ∧ s.c.toNat ≤ 0xFE →
      exec .ldhAAtC s = .next (s.setReg .a (s.mem.hram.get (s.c.toNat - 0x80))))

/-- LDH (C),A stores to hram for c in 0x80..0xFE in 2 cycles; any other c latches InvalidAddress(0xFF00|c,
write) (40_loads8.md section 6 (R112)). The opcode byte and the register c are the spec's own choice (log entry
4). That a raise sets the latch and what it leaves are the spec's own decisions (log entries 12 and 20). -/
def Obligations.PortStoreByC : Prop :=
  RunsFrom .ldhAtCA [0xE2#8] 2 ∧ ∀ s : State,
    (s.c.toNat < 0x80 ∨ s.c.toNat = 0xFF →
      exec .ldhAtCA s = .next (s.latch (.invalidAddress (0xFF00#16 ||| s.c.setWidth 16) .write))) ∧
    (0x80 ≤ s.c.toNat ∧ s.c.toNat ≤ 0xFE →
      exec .ldhAtCA s = .next (s.setMem { s.mem with hram := s.mem.hram.set (s.c.toNat - 0x80) s.a }))

/-- LDH A,(a8) loads hram for a8 in 0x80..0xFE in 3 cycles; any other a8 latches InvalidAddress(0xFF00|a8,
read) (40_loads8.md section 6 (R113)). The opcode bytes and operand codes are the spec's own choice from
general knowledge (log entry 4). That a raise sets the latch and what it leaves are the spec's own decisions
(log entries 12 and 20). -/
def Obligations.PortLoadByImmediate : Prop :=
  ∀ n : Byte, RunsFrom (.ldhAAtA8 n) [0xF0#8, n] 3 ∧ ∀ s : State,
    (n.toNat < 0x80 ∨ n.toNat = 0xFF →
      exec (.ldhAAtA8 n) s = .next (s.latch (.invalidAddress (0xFF00#16 ||| n.setWidth 16) .read))) ∧
    (0x80 ≤ n.toNat ∧ n.toNat ≤ 0xFE →
      exec (.ldhAAtA8 n) s = .next (s.setReg .a (s.mem.hram.get (n.toNat - 0x80))))

/-- LDH (a8),A stores to hram for a8 in 0x80..0xFE in 3 cycles; any other a8 latches InvalidAddress(0xFF00|a8,
write) (40_loads8.md section 6 (R114)). The opcode bytes and operand codes are the spec's own choice from
general knowledge (log entry 4). That a raise sets the latch and what it leaves are the spec's own decisions
(log entries 12 and 20). -/
def Obligations.PortStoreByImmediate : Prop :=
  ∀ n : Byte, RunsFrom (.ldhAtA8A n) [0xE0#8, n] 3 ∧ ∀ s : State,
    (n.toNat < 0x80 ∨ n.toNat = 0xFF →
      exec (.ldhAtA8A n) s = .next (s.latch (.invalidAddress (0xFF00#16 ||| n.setWidth 16) .write))) ∧
    (0x80 ≤ n.toNat ∧ n.toNat ≤ 0xFE →
      exec (.ldhAtA8A n) s = .next (s.setMem { s.mem with hram := s.mem.hram.set (n.toNat - 0x80) s.a }))

/-- LD (HL+),A stores a at hl then increments hl, in 2 cycles; a failed write leaves hl and memory unchanged
(40_loads8.md section 7 (R115)). The opcode bytes and operand codes are the spec's own choice from general
knowledge (log entry 4). That a raise sets the latch and what it leaves are the spec's own decisions (log
entries 12 and 20). -/
def Obligations.StoreAndIncrementHl : Prop :=
  RunsFrom .ldAtHlIncA [0x22#8] 2 ∧
    StoresTo .ldAtHlIncA (fun s => s.pair .hl) (fun s => s.a) (fun t => t.setPair .hl (t.pair .hl + 1#16)) ∧
    ∀ s : State, s.pair .hl = 0xFFFF#16 → exec .ldAtHlIncA s = .next (s.latch (.invalidAddress 0xFFFF#16 .write))

/-- LD A,(HL+) loads a from hl then increments hl, in 2 cycles; a failed read leaves a and hl unchanged
(40_loads8.md section 7 (R116)). The opcode bytes and operand codes are the spec's own choice from general
knowledge (log entry 4). That a raise sets the latch and what it leaves are the spec's own decisions (log
entries 12 and 20). -/
def Obligations.LoadAndIncrementHl : Prop :=
  RunsFrom .ldAAtHlInc [0x2A#8] 2 ∧
    LoadsFrom .ldAAtHlInc (fun s => s.pair .hl)
      (fun s v => (s.setReg .a v).setPair .hl (s.pair .hl + 1#16)) ∧
    ∀ s : State, s.pair .hl = 0xFFFF#16 → exec .ldAAtHlInc s = .next (s.latch (.invalidAddress 0xFFFF#16 .read))

/-- LD (HL-),A stores a at hl then decrements hl, in 2 cycles; a failed write leaves hl and memory unchanged
(40_loads8.md section 7 (R117)). The opcode bytes and operand codes are the spec's own choice from general
knowledge (log entry 4). That a raise sets the latch and what it leaves are the spec's own decisions (log
entries 12 and 20). -/
def Obligations.StoreAndDecrementHl : Prop :=
  RunsFrom .ldAtHlDecA [0x32#8] 2 ∧
    StoresTo .ldAtHlDecA (fun s => s.pair .hl) (fun s => s.a) (fun t => t.setPair .hl (t.pair .hl - 1#16)) ∧
    ∀ s : State, s.pair .hl = 0x0000#16 →
      (0 < s.mem.cartLen → exec .ldAtHlDecA s =
        .next ((s.setMem { s.mem with cart := s.mem.cart.set 0 s.a }).setPair .hl 0xFFFF#16)) ∧
      (s.mem.cartLen = 0 → exec .ldAtHlDecA s = .next (s.latch (.invalidAddress 0x0000#16 .write)))

/-- LD A,(HL-) loads a from hl then decrements hl, in 2 cycles; a failed read leaves a and hl unchanged
(40_loads8.md section 7 (R118)). The opcode bytes and operand codes are the spec's own choice from general
knowledge (log entry 4). That a raise sets the latch and what it leaves are the spec's own decisions (log
entries 12 and 20). -/
def Obligations.LoadAndDecrementHl : Prop :=
  RunsFrom .ldAAtHlDec [0x3A#8] 2 ∧
    LoadsFrom .ldAAtHlDec (fun s => s.pair .hl)
      (fun s v => (s.setReg .a v).setPair .hl (s.pair .hl - 1#16)) ∧
    ∀ s : State, s.pair .hl = 0x0000#16 → 0 < s.mem.cartLen →
      exec .ldAAtHlDec s = .next ((s.setReg .a (s.mem.cart.get 0)).setPair .hl 0xFFFF#16)

/-- LD rr,n16 sets the pair or sp to the word fetched low byte first, in 3 cycles; a failed fetch leaves it
unchanged (41_loads16.md (R140)). The opcode bytes and operand codes are the spec's own choice from general
knowledge (log entry 4). That a raise sets the latch and what it leaves are the spec's own decisions (log
entries 12 and 20). -/
def Obligations.LoadImmediateWord : Prop :=
  ∀ n : Word,
    RunsFrom (.ldBcN16 n) [0x01#8, lo8 n, hi8 n] 3 ∧ RunsFrom (.ldDeN16 n) [0x11#8, lo8 n, hi8 n] 3 ∧
    RunsFrom (.ldHlN16 n) [0x21#8, lo8 n, hi8 n] 3 ∧ RunsFrom (.ldSpN16 n) [0x31#8, lo8 n, hi8 n] 3 ∧
    ∀ s : State,
      exec (.ldBcN16 n) s = .next { s with b := hi8 n, c := lo8 n } ∧
      exec (.ldDeN16 n) s = .next { s with d := hi8 n, e := lo8 n } ∧
      exec (.ldHlN16 n) s = .next { s with h := hi8 n, l := lo8 n } ∧
      exec (.ldSpN16 n) s = .next { s with sp := n }

/-- LD (a16),SP stores sp low byte first at a16 and a16+1 in 5 cycles; a second write that fails leaves the
first byte (41_loads16.md (R141)). The opcode bytes and operand codes are the spec's own choice from general
knowledge (log entry 4). That a raise sets the latch and what it leaves are the spec's own decisions (log
entries 12 and 20). -/
def Obligations.StoreStackPointer : Prop :=
  ∀ n : Word, RunsFrom (.ldAtA16Sp n) [0x08#8, lo8 n, hi8 n] 5 ∧ ∀ s : State,
    (∀ m1 m2, s.mem.write n (lo8 s.sp) = .ok m1 → m1.write (n + 1#16) (hi8 s.sp) = .ok m2 →
      exec (.ldAtA16Sp n) s = .next { s with mem := m2 }) ∧
    (∀ e, s.mem.write n (lo8 s.sp) = .error e → exec (.ldAtA16Sp n) s = .next { s with fault := some e }) ∧
    (∀ m1 e, s.mem.write n (lo8 s.sp) = .ok m1 → m1.write (n + 1#16) (hi8 s.sp) = .error e →
      exec (.ldAtA16Sp n) s = .next { s with mem := m1, fault := some e }) ∧
    (n = 0xDFFF#16 → exec (.ldAtA16Sp n) s = .next { s with
      mem := { s.mem with wram := s.mem.wram.set 0x1FFF (lo8 s.sp) }, fault := some (.prohibitedAccess 0xE000#16) }) ∧
    (n = 0xFFFE#16 → exec (.ldAtA16Sp n) s = .next { s with
      mem := { s.mem with hram := s.mem.hram.set 0x7E (lo8 s.sp) }
      fault := some (.invalidAddress 0xFFFF#16 .write) }) ∧
    (n = 0xFFFF#16 → exec (.ldAtA16Sp n) s = .next { s with fault := some (.invalidAddress 0xFFFF#16 .write) })

/-- LD SP,HL sets sp to hl in 2 cycles, whatever hl is (41_loads16.md (R142)). The opcode bytes and operand
codes are the spec's own choice from general knowledge (log entry 4). That a raise sets the latch and what it
leaves are the spec's own decisions (log entries 12 and 20). -/
def Obligations.TransferHlToSp : Prop :=
  RunsFrom .ldSpHl [0xF9#8] 2 ∧ ∀ s : State, exec .ldSpHl s = .next { s with sp := s.pair .hl }

/-- PUSH qq stores the high byte at sp-1 and the low byte at sp-2 in 4 cycles; a failed write keeps the effects
before it (42_stack.md (R150)). The opcode bytes and operand codes are the spec's own choice from general
knowledge (log entry 4). That a raise sets the latch and what it leaves are the spec's own decisions (log
entries 12 and 20). -/
def Obligations.PushStoresHighThenLow : Prop :=
  ∀ p : Pair, RunsFrom (pushInstr p) [BitVec.ofNat 8 (0xC5 + 16 * codeQq p)] 4 ∧ ∀ s : State,
    (∀ m1 m2, s.mem.write (s.sp - 1#16) (hi8 (s.pair p)) = .ok m1 → m1.write (s.sp - 2#16) (lo8 (s.pair p)) = .ok m2 →
      exec (pushInstr p) s = .next { s with sp := s.sp - 2#16, mem := m2 }) ∧
    (∀ e, s.mem.write (s.sp - 1#16) (hi8 (s.pair p)) = .error e →
      exec (pushInstr p) s = .next { s with sp := s.sp - 1#16, fault := some e }) ∧
    (∀ m1 e, s.mem.write (s.sp - 1#16) (hi8 (s.pair p)) = .ok m1 →
      m1.write (s.sp - 2#16) (lo8 (s.pair p)) = .error e →
      exec (pushInstr p) s = .next { s with sp := s.sp - 2#16, mem := m1, fault := some e }) ∧
    (s.sp = 0x0000#16 →
      exec (pushInstr p) s = .next { s with sp := 0xFFFF#16, fault := some (.invalidAddress 0xFFFF#16 .write) }) ∧
    (s.sp = 0xFF80#16 →
      exec (pushInstr p) s = .next { s with sp := 0xFF7F#16, fault := some (.invalidAddress 0xFF7F#16 .write) }) ∧
    (s.sp = 0xE001#16 →
      exec (pushInstr p) s = .next { s with sp := 0xE000#16, fault := some (.prohibitedAccess 0xE000#16) })

/-- POP BC/DE/HL loads low then high byte from sp in 3 cycles; a failed read leaves the pair and keeps the sp
update before it (42_stack.md (R151)). The opcode bytes and operand codes are the spec's own choice from
general knowledge (log entry 4). That a raise sets the latch and what it leaves are the spec's own decisions
(log entries 12 and 20). -/
def Obligations.PopLoadsLowThenHigh : Prop :=
  ∀ p : Pair, p ≠ .af → RunsFrom (popInstr p) [BitVec.ofNat 8 (0xC1 + 16 * codeQq p)] 3 ∧ ∀ s : State,
    (∀ lo hi, s.mem.read s.sp = .ok lo → s.mem.read (s.sp + 1#16) = .ok hi →
      exec (popInstr p) s = .next ({ s with sp := s.sp + 2#16 }.setPair p (cat16 hi lo))) ∧
    (∀ e, s.mem.read s.sp = .error e → exec (popInstr p) s = .next { s with fault := some e }) ∧
    (∀ lo e, s.mem.read s.sp = .ok lo → s.mem.read (s.sp + 1#16) = .error e →
      exec (popInstr p) s = .next { s with sp := s.sp + 1#16, fault := some e }) ∧
    (s.sp = 0xFFFE#16 →
      exec (popInstr p) s = .next { s with sp := 0xFFFF#16, fault := some (.invalidAddress 0xFFFF#16 .read) }) ∧
    (s.sp = 0xFFFF#16 → exec (popInstr p) s = .next { s with fault := some (.invalidAddress 0xFFFF#16 .read) })

/-- POP AF loads a and the four flags in 3 cycles, the low nibble of f zero; no other instruction changes a
flag (42_stack.md (R152)). The opcode byte and the flag bit numbers are the spec's own choice (log entry 4).
That a raise sets the latch and what it leaves are the spec's own decisions (log entries 12 and 20). -/
def Obligations.PopAfLoadsAccumulatorAndFlags : Prop :=
  RunsFrom .popAf [0xF1#8] 3 ∧
  (∀ s : State,
    (∀ lo hi, s.mem.read s.sp = .ok lo → s.mem.read (s.sp + 1#16) = .ok hi → ∃ t, exec .popAf s = .next t ∧
      t = { s with a := hi, f := lo &&& 0xF0#8, sp := s.sp + 2#16 } ∧
      t.flagZ = lo.getLsbD 7 ∧ t.flagN = lo.getLsbD 6 ∧ t.flagH = lo.getLsbD 5 ∧ t.flagC = lo.getLsbD 4 ∧
      t.f &&& 0x0F#8 = 0#8) ∧
    (∀ e, s.mem.read s.sp = .error e → exec .popAf s = .next { s with fault := some e }) ∧
    (∀ lo e, s.mem.read s.sp = .ok lo → s.mem.read (s.sp + 1#16) = .error e →
      exec .popAf s = .next { s with sp := s.sp + 1#16, fault := some e })) ∧
  ∀ (i : Instr) (s t : State), i ≠ .popAf → exec i s = .next t → t.f = s.f

/-- POP after PUSH restores sp and gives the pushed value to the popped pair, f masked for AF (42_stack.md
(R150-R152), 95_test_vectors.md T12). The canonical form that the hypothesis asks of memory is the model's own
(log entry 1). -/
def Obligations.PopAfterPushGivesTheValueBack : Prop :=
  ∀ (p q : Pair) (s t : State), s.mem.wf = true → s.fault = none → exec (pushInstr p) s = .next t → t.fault = none →
    exec (popInstr q) t = .next ({ t with sp := s.sp }.setPair q (s.pair p))

/-- NOP changes nothing but pc, in 1 cycle (43_misc.md (R160), 60_exceptions.md section 2 (R172)). That a
failed fetch sets the latch and returns Err is R172's, a decision of the spec's own (D5, log entry 20), in the
model's form (log entry 2). -/
def Obligations.NopChangesNothing : Prop :=
  RunsFrom .nop [0x00#8] 1 ∧ ∀ s : State, exec .nop s = .next s

/-- STOP changes nothing but pc, in 1 cycle; the byte after it is the next instruction (43_misc.md (R161)).
That STOP is a no-operation of one byte, and its opcode, are the spec's own decisions (log entries 4 and 10). -/
def Obligations.StopIsAOneByteNoOperation : Prop :=
  RunsFrom .stop [0x10#8] 1 ∧ (∀ s : State, exec .stop s = .next s) ∧
  ∀ (s : State) (v : Byte), s.fault = none → holdsAt s.mem s.pc [0x10#8, v] = true → ∃ t, step s = .next t ∧
    t.fault = none ∧ t.fetchByte = .ok (v, t.setPc (t.pc + 1#16))

/-- A byte that any storing form stores is what the next fetch at its address, or at its echo alias, reads
(20_memory.md section 6 (R60), 30_encoding.md section 1 (R72), 20_memory.md section 4 (R55)). The canonical
form that the hypothesis asks of memory is the model's own (log entry 1). -/
def Obligations.StoredByteIsTheNextOpcode : Prop :=
  ∀ (i : Instr) (s t : State), s.mem.wf = true → s.fault = none → exec i s = .next t → t.fault = none →
    (storedBytes s i).length = (targets s i).length ∧
    ∀ (k : Nat) (a : Word) (v : Byte), (targets s i)[k]? = some a → (storedBytes s i)[k]? = some v →
      (∀ x, unEcho x = unEcho a → (t.setPc x).fetchByte = .ok (v, t.setPc (x + 1#16))) ∧
      (unEcho s.pc = unEcho a → t.fetchByte = .ok (v, t.setPc (s.pc + 1#16)))

/-- Each way a run can end is the one R196 gives, with its steps of the core and the sum of their cycles
(70_reset_and_hazards.md section 3 (R196)). The end of a run is the spec's own decision (log entry 16). -/
def Obligations.EndedRunIsTheStepsOfTheCore : Prop :=
  ∀ (stopPc : Word) (fuel : Nat) (s : State),
    (∀ (t : State) (n cycles : Nat), run stopPc fuel s = .ended t n cycles →
      n ≤ fuel ∧ core.run n s = .next t ∧ t.pc = stopPc ∧ t.fault = none ∧ totalCycles n s = some cycles ∧
        NotEndedBefore stopPc n s) ∧
    (∀ (e : CoreError) (t : State) (n cycles : Nat), run stopPc fuel s = .faulted e t n cycles →
      n < fuel ∧ totalCycles n s = some cycles ∧ NotEndedBefore stopPc (n + 1) s ∧ t.fault = some e ∧
        ∃ u, core.run n s = .next u ∧ stepReturn u = some (.err e) ∧
          (step u = .next t ∨ (step u = .fault (.latched e) ∧ t = u))) ∧
    (∀ t : State, run stopPc fuel s = .outOfFuel t →
      core.run fuel s = .next t ∧ (∃ cycles, totalCycles fuel s = some cycles) ∧
        NotEndedBefore stopPc (fuel + 1) s) ∧
    ∀ r, run stopPc fuel s ≠ .refused r
end

