-- ==== Sys2Proof/Laws/Store.lean ====
section
/-!
SUPPORT. The laws of a backing store: reading after writing, the canonical form kept, and equal reads make equal stores.
-/

namespace Sys2Proof.Machine

theorem Store.consCell_cons (k : Nat) (v : Byte) (m : Store) (h : v ≠ unlistedByte) :
    consCell k v m = (k, v) :: m := if_neg h

theorem Store.consCell_unlisted (k : Nat) (m : Store) : consCell k unlistedByte m = m := if_pos rfl

/-- The canonical form holds from any lower bound on. -/
theorem Store.wfFrom_mono {size lo lo' : Nat} {m : Store} (h : wfFrom size lo m = true) (hle : lo' ≤ lo) :
    wfFrom size lo' m = true := by
  cases m with
  | nil => rfl
  | cons c rest =>
    simp only [wfFrom, Bool.and_eq_true, decide_eq_true_eq] at h ⊢
    exact ⟨⟨⟨by omega, h.1.1.2⟩, h.1.2⟩, h.2⟩

/-- An index below the lower bound is unlisted. -/
theorem Store.get_of_lt {size lo k : Nat} {m : Store} (h : wfFrom size lo m = true) (hk : k < lo) :
    m.get k = unlistedByte := by
  induction m generalizing lo with
  | nil => rfl
  | cons c rest ih =>
    obtain ⟨j, w⟩ := c
    simp only [wfFrom, Bool.and_eq_true, decide_eq_true_eq] at h
    have hne : k ≠ j := by omega
    simp only [get, if_neg hne]
    exact ih h.2 (by omega)

theorem Store.get_consCell_self {size lo k : Nat} {m : Store} (v : Byte) (h : wfFrom size lo m = true) (hk : k < lo) :
    (consCell k v m).get k = v := by
  unfold consCell
  split
  · next hv => rw [get_of_lt h hk, hv]
  · simp [get]

theorem Store.get_consCell_ne {k q : Nat} (v : Byte) (m : Store) (h : q ≠ k) : (consCell k v m).get q = m.get q := by
  unfold consCell
  split
  · rfl
  · simp [get, h]

theorem Store.wfFrom_consCell {size lo k : Nat} {m : Store} (v : Byte) (h : wfFrom size (k + 1) m = true) (hlo : lo ≤ k)
    (hk : k < size) : wfFrom size lo (consCell k v m) = true := by
  unfold consCell
  split
  · exact wfFrom_mono h (by omega)
  · next hv => simp [wfFrom, hlo, hk, hv, h]

/-- A write to an index within the size keeps the canonical form. -/
theorem Store.wfFrom_set {size lo k : Nat} {m : Store} (v : Byte) (h : wfFrom size lo m = true) (hlo : lo ≤ k)
    (hk : k < size) : wfFrom size lo (m.set k v) = true := by
  induction m generalizing lo with
  | nil => exact wfFrom_consCell v rfl hlo hk
  | cons c rest ih =>
    obtain ⟨j, w⟩ := c
    have h0 := h
    simp only [wfFrom, Bool.and_eq_true, decide_eq_true_eq] at h
    simp only [set]
    split
    · next hkj =>
      refine wfFrom_consCell v ?_ hlo hk
      simp only [wfFrom, Bool.and_eq_true, decide_eq_true_eq]
      exact ⟨⟨⟨by omega, h.1.1.2⟩, h.1.2⟩, h.2⟩
    · split
      · next hkj hje =>
        subst hje
        exact wfFrom_consCell v h.2 hlo hk
      · next hkj hje =>
        simp only [wfFrom, Bool.and_eq_true, decide_eq_true_eq]
        exact ⟨h.1, ih h.2 (by omega)⟩

theorem Store.wf_set {size k : Nat} {m : Store} (v : Byte) (h : m.wf size = true) (hk : k < size) :
    (m.set k v).wf size = true := wfFrom_set v h (Nat.zero_le k) hk

/-- Reading the byte just written. -/
theorem Store.get_set_self {size lo k : Nat} {m : Store} (v : Byte) (h : wfFrom size lo m = true) :
    (m.set k v).get k = v := by
  induction m generalizing lo with
  | nil => exact get_consCell_self (size := k) (lo := k + 1) v rfl (by omega)
  | cons c rest ih =>
    obtain ⟨j, w⟩ := c
    simp only [wfFrom, Bool.and_eq_true, decide_eq_true_eq] at h
    simp only [set]
    split
    · next hkj =>
      refine get_consCell_self (size := size) (lo := k + 1) v ?_ (by omega)
      simp only [wfFrom, Bool.and_eq_true, decide_eq_true_eq]
      exact ⟨⟨⟨by omega, h.1.1.2⟩, h.1.2⟩, h.2⟩
    · split
      · next hkj hje =>
        subst hje
        exact get_consCell_self v h.2 (by omega)
      · next hkj hje =>
        simp only [get, if_neg hje]
        exact ih h.2

/-- A write leaves every other index alone, whatever the store. -/
theorem Store.get_set_ne {k q : Nat} (m : Store) (v : Byte) (hq : q ≠ k) : (m.set k v).get q = m.get q := by
  induction m with
  | nil => exact get_consCell_ne v [] hq
  | cons c rest ih =>
    obtain ⟨j, w⟩ := c
    simp only [set]
    split
    · exact get_consCell_ne v _ hq
    · split
      · next hkj hje =>
        subst hje
        rw [get_consCell_ne v rest hq]
        simp [get, hq]
      · simp only [get]
        split
        · rfl
        · exact ih

/-- The store of a byte array is canonical and within its length. -/
theorem Store.wfFrom_ofBytesFrom {size k : Nat} (bytes : List Byte) (h : k + bytes.length ≤ size) :
    wfFrom size k (ofBytesFrom k bytes) = true := by
  induction bytes generalizing k with
  | nil => rfl
  | cons v vs ih =>
    simp only [List.length_cons] at h
    exact wfFrom_consCell v (ih (by omega)) (Nat.le_refl k) (by omega)

theorem Store.wf_ofBytes {size : Nat} (bytes : List Byte) (h : bytes.length ≤ size) : (ofBytes bytes).wf size = true :=
  wfFrom_ofBytesFrom bytes (by omega)

theorem Store.get_ofBytesFrom (bytes : List Byte) (k j : Nat) :
    (ofBytesFrom k bytes).get (k + j) = bytes.getD j unlistedByte := by
  induction bytes generalizing k j with
  | nil => rfl
  | cons v vs ih =>
    simp only [ofBytesFrom]
    cases j with
    | zero =>
      exact get_consCell_self (size := k + 1 + vs.length) v (wfFrom_ofBytesFrom vs (Nat.le_refl _)) (by omega)
    | succ j =>
      rw [get_consCell_ne v _ (by omega), show k + (j + 1) = k + 1 + j by omega, ih]
      rfl

/-- The store of a byte array reads as the array. -/
theorem Store.get_ofBytes (bytes : List Byte) (j : Nat) : (ofBytes bytes).get j = bytes.getD j unlistedByte := by
  have := get_ofBytesFrom bytes 0 j
  simpa [ofBytes] using this

/-- Two canonical stores that read alike are equal data. -/
theorem Store.ext_wfFrom {size lo : Nat} {m n : Store} (hm : wfFrom size lo m = true) (hn : wfFrom size lo n = true)
    (h : ∀ k, m.get k = n.get k) : m = n := by
  induction m generalizing lo n with
  | nil =>
    cases n with
    | nil => rfl
    | cons d n =>
      obtain ⟨i, x⟩ := d
      simp only [wfFrom, Bool.and_eq_true, decide_eq_true_eq] at hn
      exact absurd (by simpa [get] using (h i).symm) hn.1.2
  | cons c m ih =>
    obtain ⟨j, w⟩ := c
    have hm0 := hm
    simp only [wfFrom, Bool.and_eq_true, decide_eq_true_eq] at hm
    cases n with
    | nil => exact absurd (by simpa [get] using h j) hm.1.2
    | cons d n =>
      obtain ⟨i, x⟩ := d
      have hn0 := hn
      simp only [wfFrom, Bool.and_eq_true, decide_eq_true_eq] at hn
      have hij : i = j := by
        rcases Nat.lt_trichotomy i j with hlt | heq | hgt
        · have := h i
          simp only [get, if_neg (Nat.ne_of_lt hlt), if_true] at this
          rw [get_of_lt hm.2 (by omega)] at this
          exact absurd this.symm hn.1.2
        · exact heq
        · have := h j
          simp only [get, if_neg (Nat.ne_of_lt hgt), if_true] at this
          rw [get_of_lt hn.2 (by omega)] at this
          exact absurd this hm.1.2
      subst hij
      have hw : w = x := by simpa [get] using h i
      subst hw
      have hrest : m = n := by
        refine ih hm.2 hn.2 fun k => ?_
        by_cases hk : k = i
        · subst hk
          rw [get_of_lt hm.2 (by omega), get_of_lt hn.2 (by omega)]
        · simpa [get, hk] using h k
      rw [hrest]

end Sys2Proof.Machine
end

