-- ==== Sys2Proof/Laws/Bus.lean ====
section
/-!
SUPPORT. What the bus can do, said once: the shape of a successful write, which error a failed access carries, and
what a write leaves alone.
-/

namespace Sys2Proof.Machine

/-! ### Stores of a memory -/

theorem Memory.store_setStore (m : Memory) (i j : StoreId) (st : Store) :
    (m.setStore i st).store j = if j = i then st else m.store j := by
  cases i <;> cases j <;> rfl

@[simp] theorem Memory.size_setStore (m : Memory) (i j : StoreId) (st : Store) :
    (m.setStore i st).size j = m.size j := by
  cases i <;> cases j <;> rfl

@[simp] theorem Memory.cartLen_setStore (m : Memory) (i : StoreId) (st : Store) :
    (m.setStore i st).cartLen = m.cartLen := by
  cases i <;> rfl

/-- A memory is canonical when each of its stores is. -/
theorem Memory.wf_iff (m : Memory) : m.wf = true ↔ ∀ i, (m.store i).wf (m.size i) = true := by
  constructor
  · intro h i
    simp only [Memory.wf, Bool.and_eq_true] at h
    cases i
    · exact h.1.1.1.1
    · exact h.1.1.1.2
    · exact h.1.1.2
    · exact h.1.2
    · exact h.2
  · intro h
    simp only [Memory.wf, Bool.and_eq_true]
    exact ⟨⟨⟨⟨h .cart, h .vram⟩, h .wram⟩, h .oam⟩, h .hram⟩

/-- Two canonical memories with the same CART_LEN whose stores read alike are equal data. -/
theorem Memory.ext_wf {m n : Memory} (hm : m.wf = true) (hn : n.wf = true) (hlen : m.cartLen = n.cartLen)
    (h : ∀ i k, (m.store i).get k = (n.store i).get k) : m = n := by
  have hsize : ∀ i, m.size i = n.size i := by intro i; cases i <;> first | exact hlen | rfl
  have key : ∀ i, m.store i = n.store i := fun i => by
    have hi := (Memory.wf_iff n).mp hn i
    rw [← hsize i] at hi
    exact Store.ext_wfFrom ((Memory.wf_iff m).mp hm i) hi (h i)
  cases m
  cases n
  have h1 := key .cart
  have h2 := key .vram
  have h3 := key .wram
  have h4 := key .oam
  have h5 := key .hram
  simp only [Memory.store] at h1 h2 h3 h4 h5 hlen
  subst h1 h2 h3 h4 h5 hlen
  rfl

/-! ### The router -/

/-- An address that a write reaches, a read reaches at the same byte. -/
theorem route_read_of_write {addr : Word} {id : StoreId} {k : Nat} (h : route .write addr = .cell id k) :
    route .read addr = .cell id k := by
  unfold route at h ⊢
  simp only at h ⊢
  repeat' split
  all_goals simp_all

/-- A cartridge address keeps its own number as the index (R42). -/
theorem route_cart_index {kind : AccessKind} {addr : Word} {k : Nat} (h : route kind addr = .cell .cart k) :
    k = addr.toNat := by
  unfold route at h
  simp only at h
  repeat' split at h
  all_goals simp_all

/-- The index of a routed address lies in its store, but for the cartridge (R41). -/
theorem route_index_lt {kind : AccessKind} {addr : Word} {id : StoreId} {k : Nat} (m : Memory)
    (h : route kind addr = .cell id k) (hid : id ≠ .cart) : k < m.size id := by
  unfold route at h
  simp only at h
  have := addr.isLt
  repeat' split at h
  all_goals simp only [Target.cell.injEq, reduceCtorEq] at h
  all_goals obtain ⟨rfl, rfl⟩ := h
  all_goals first
    | exact absurd rfl hid
    | simp only [Memory.size, Config.vramSize, Config.wramSize, Config.oamSize, Config.hramSize]; omega

/-- No read is routed to a prohibition (R46). -/
theorem route_read_ne_prohibited (addr : Word) : route .read addr ≠ .prohibited := by
  unfold route
  simp only
  repeat' split
  all_goals simp

/-! ### The router, range by range (R41) -/

theorem route_rom (kind : AccessKind) {addr : Word} (h : addr.toNat < 0x8000) :
    route kind addr = .cell .cart addr.toNat := by
  simp (disch := omega) only [route, if_pos]

theorem route_vram (kind : AccessKind) {addr : Word} (h1 : 0x8000 ≤ addr.toNat) (h2 : addr.toNat < 0xA000) :
    route kind addr = .cell .vram (addr.toNat - 0x8000) := by
  simp (disch := omega) only [route, if_pos, if_neg]

theorem route_cartRam (kind : AccessKind) {addr : Word} (h1 : 0xA000 ≤ addr.toNat) (h2 : addr.toNat < 0xC000) :
    route kind addr = .cell .cart addr.toNat := by
  simp (disch := omega) only [route, if_pos, if_neg]

theorem route_wram (kind : AccessKind) {addr : Word} (h1 : 0xC000 ≤ addr.toNat) (h2 : addr.toNat < 0xE000) :
    route kind addr = .cell .wram (addr.toNat - 0xC000) := by
  simp (disch := omega) only [route, if_pos, if_neg]

theorem route_echo_read {addr : Word} (h1 : 0xE000 ≤ addr.toNat) (h2 : addr.toNat < 0xFE00) :
    route .read addr = .cell .wram (addr.toNat - 0xE000) := by
  simp (disch := omega) only [route, if_pos, if_neg]

theorem route_echo_write {addr : Word} (h1 : 0xE000 ≤ addr.toNat) (h2 : addr.toNat < 0xFE00) :
    route .write addr = .prohibited := by
  simp (disch := omega) only [route, if_pos, if_neg]

theorem route_oam (kind : AccessKind) {addr : Word} (h1 : 0xFE00 ≤ addr.toNat) (h2 : addr.toNat < 0xFEA0) :
    route kind addr = .cell .oam (addr.toNat - 0xFE00) := by
  simp (disch := omega) only [route, if_pos, if_neg]

theorem route_hram (kind : AccessKind) {addr : Word} (h1 : 0xFF80 ≤ addr.toNat) (h2 : addr.toNat < 0xFFFF) :
    route kind addr = .cell .hram (addr.toNat - 0xFF80) := by
  simp (disch := omega) only [route, if_pos, if_neg]

theorem route_io (kind : AccessKind) {addr : Word} (h1 : 0xFEA0 ≤ addr.toNat) (h2 : addr.toNat < 0xFF80) :
    route kind addr = .unmapped := by
  simp (disch := omega) only [route, if_pos, if_neg]

theorem route_last (kind : AccessKind) {addr : Word} (h : addr.toNat = 0xFFFF) :
    route kind addr = .unmapped := by
  simp (disch := omega) only [route, if_neg]

/-! ### Reading -/

theorem Memory.read_of_route {m : Memory} {addr : Word} {id : StoreId} {k : Nat}
    (h : route .read addr = .cell id k) (hk : k < m.size id) : m.read addr = .ok ((m.store id).get k) := by
  simp [Memory.read, h, hk]

/-- A failed read carries `InvalidAddress(addr, read)`, and the address is one that raises it. -/
theorem Memory.read_error {m : Memory} {addr : Word} {e : CoreError} (h : m.read addr = .error e) :
    e = .invalidAddress addr .read ∧ e.Genuine m := by
  unfold Memory.read at h
  split at h
  · next id k hr =>
    split at h
    · cases h
    · next hk =>
      cases h
      refine ⟨rfl, .inr ?_⟩
      have hid : id = .cart := Classical.byContradiction fun hne => hk (route_index_lt m hr hne)
      subst hid
      have := route_cart_index hr
      subst this
      exact ⟨hr, by simpa [Memory.size] using hk⟩
  · next hr => exact absurd hr (route_read_ne_prohibited addr)
  · next hr =>
    cases h
    exact ⟨rfl, .inl hr⟩

theorem Memory.read_of_unmapped {m : Memory} {addr : Word} (h : route .read addr = .unmapped) :
    m.read addr = .error (.invalidAddress addr .read) := by
  simp [Memory.read, h]

theorem Memory.read_of_cart_end {m : Memory} {addr : Word} {k : Nat} (h : route .read addr = .cell .cart k)
    (hk : m.cartLen ≤ k) : m.read addr = .error (.invalidAddress addr .read) := by
  simp [Memory.read, h, Memory.size, Nat.not_lt.mpr hk]

/-! ### Writing -/

theorem Memory.write_of_route {m : Memory} {addr : Word} {id : StoreId} {k : Nat} (v : Byte)
    (h : route .write addr = .cell id k) (hk : k < m.size id) :
    m.write addr v = .ok (m.setStore id ((m.store id).set k v)) := by
  simp [Memory.write, h, hk]

theorem Memory.write_of_prohibited {m : Memory} {addr : Word} (v : Byte) (h : route .write addr = .prohibited) :
    m.write addr v = .error (.prohibitedAccess addr) := by
  simp [Memory.write, h]

theorem Memory.write_of_unmapped {m : Memory} {addr : Word} (v : Byte) (h : route .write addr = .unmapped) :
    m.write addr v = .error (.invalidAddress addr .write) := by
  simp [Memory.write, h]

theorem Memory.write_of_cart_end {m : Memory} {addr : Word} {k : Nat} (v : Byte)
    (h : route .write addr = .cell .cart k) (hk : m.cartLen ≤ k) :
    m.write addr v = .error (.invalidAddress addr .write) := by
  simp [Memory.write, h, Memory.size, Nat.not_lt.mpr hk]

/-- A successful write sets one byte of one store. -/
theorem Memory.write_ok {m m' : Memory} {addr : Word} {v : Byte} (h : m.write addr v = .ok m') :
    ∃ id k, route .write addr = .cell id k ∧ k < m.size id ∧ m' = m.setStore id ((m.store id).set k v) := by
  unfold Memory.write at h
  split at h
  · next id k hr =>
    split at h
    · next hk =>
      cases h
      exact ⟨id, k, hr, hk, rfl⟩
    · cases h
  · cases h
  · cases h

/-- A failed write carries `InvalidAddress(addr, write)` or `ProhibitedAccess(addr)`, and the address is one that
raises it. -/
theorem Memory.write_error {m : Memory} {addr : Word} {v : Byte} {e : CoreError} (h : m.write addr v = .error e) :
    (e = .invalidAddress addr .write ∨ e = .prohibitedAccess addr) ∧ e.Genuine m := by
  unfold Memory.write at h
  split at h
  · next id k hr =>
    split at h
    · cases h
    · next hk =>
      cases h
      refine ⟨.inl rfl, .inr ?_⟩
      have hid : id = .cart := Classical.byContradiction fun hne => hk (route_index_lt m hr hne)
      subst hid
      have := route_cart_index hr
      subst this
      exact ⟨hr, by simpa [Memory.size] using hk⟩
  · next hr =>
    cases h
    exact ⟨.inr rfl, hr⟩
  · next hr =>
    cases h
    exact ⟨.inl rfl, .inl hr⟩

/-- A write keeps the length of the cartridge image. -/
theorem Memory.write_cartLen {m m' : Memory} {addr : Word} {v : Byte} (h : m.write addr v = .ok m') :
    m'.cartLen = m.cartLen := by
  obtain ⟨id, k, -, -, rfl⟩ := Memory.write_ok h
  simp

/-- A write keeps every store in canonical form and within its size. -/
theorem Memory.write_wf {m m' : Memory} {addr : Word} {v : Byte} (hm : m.wf = true) (h : m.write addr v = .ok m') :
    m'.wf = true := by
  obtain ⟨id, k, -, hk, rfl⟩ := Memory.write_ok h
  rw [Memory.wf_iff] at hm ⊢
  intro j
  rw [Memory.size_setStore, Memory.store_setStore]
  split
  · next hj => subst hj; exact Store.wf_set v (hm j) hk
  · exact hm j

/-- An address that routes elsewhere reads as before the write. -/
theorem Memory.read_write_of_route_ne {m m' : Memory} {addr other : Word} {v : Byte} (h : m.write addr v = .ok m')
    (hne : route .read other ≠ route .write addr) : m'.read other = m.read other := by
  obtain ⟨id, k, hr, -, rfl⟩ := Memory.write_ok h
  unfold Memory.read
  cases ho : route .read other with
  | cell j q =>
    simp only [Memory.size_setStore, Memory.store_setStore]
    by_cases hj : j = id
    · subst hj
      have hq : q ≠ k := by
        intro hq
        subst hq
        exact hne (ho.trans hr.symm)
      simp [Store.get_set_ne (m.store j) v hq]
    · simp [hj]
  | prohibited => rfl
  | unmapped => rfl

/-- An address that routes to the byte written reads it. -/
theorem Memory.read_write_of_route_eq {m m' : Memory} {addr other : Word} {v : Byte} (hm : m.wf = true)
    (h : m.write addr v = .ok m') (heq : route .read other = route .write addr) : m'.read other = .ok v := by
  obtain ⟨id, k, hr, hk, rfl⟩ := Memory.write_ok h
  rw [Memory.read_of_route (heq.trans hr) (by simpa using hk), Memory.store_setStore, if_pos rfl]
  rw [Store.get_set_self v ((Memory.wf_iff m).mp hm id)]

/-! ### Genuine errors -/

/-- Whether an error is genuine depends on the memory through CART_LEN alone. -/
theorem CoreError.genuine_of_cartLen {m n : Memory} {e : CoreError} (h : n.cartLen = m.cartLen) (he : e.Genuine m) :
    e.Genuine n := by
  cases e with
  | invalidAddress addr kind => cases kind <;> simpa [CoreError.Genuine, h] using he
  | unsupportedOpcode op => exact he
  | prohibitedAccess addr => exact he
  | ioFailure => exact he

end Sys2Proof.Machine
end

