-- ==== Sys2Proof/Laws/Decode.lean ====
section
/-!
SUPPORT. What a row of the opcode map gives: instructions whose encoding begins with that row's opcode byte.
-/

namespace Sys2Proof

/-- Every instruction a row makes encodes to the row's opcode byte and the operand bytes it was made of. -/
def Row.Encodes (op : Byte) : Row → Prop
  | .f0 i => encode i = [op] ∧ i.format = .f0
  | .f1 mk => ∀ n, encode (mk n) = [op, n] ∧ (mk n).format = .f1
  | .f2 mk => ∀ n, encode (mk n) = [op, lo8 n, hi8 n] ∧ (mk n).format = .f2

theorem mem_of_findRow {table : List (Byte × Row)} {op : Byte} {row : Row} (h : findRow table op = some row) :
    (op, row) ∈ table := by
  induction table with
  | nil => simp [findRow] at h
  | cons cell rest ih =>
    obtain ⟨k, r⟩ := cell
    simp only [findRow] at h
    split at h
    · next hk =>
      cases h
      exact hk ▸ List.mem_cons_self
    · exact List.mem_cons_of_mem _ (ih h)

theorem opcodeTable_encodes : ∀ cell ∈ opcodeTable, cell.2.Encodes cell.1 := by
  simp only [opcodeTable, tableImmediate, tableMoveBC, tableMoveDE, tableMoveHL, tableMoveMA, tableStackPort,
    List.mem_append, List.mem_cons, List.not_mem_nil, or_false]
  rintro cell h
  repeat' rcases h with h | h
  all_goals first
    | exact ⟨rfl, rfl⟩
    | exact fun n => ⟨rfl, rfl⟩

/-- The row found for an opcode byte makes instructions of that opcode. -/
theorem opcodeRow_encodes {op : Byte} {row : Row} (h : opcodeRow op = some row) : row.Encodes op :=
  opcodeTable_encodes _ (mem_of_findRow h)

end Sys2Proof
end

