-- ==== Sys2Proof/Laws/State.lean ====
section
/-!
SUPPORT. What each update of the state does to each field, so that no later proof unfolds a record update.
-/

namespace Sys2Proof.Machine

variable (s : State)

/-! ### Pair values -/

@[simp] theorem hi8_cat16 (hi lo : Byte) : hi8 (cat16 hi lo) = hi := by
  unfold hi8 cat16
  apply BitVec.eq_of_getLsbD_eq
  intro i h
  rw [BitVec.getLsbD_extractLsb', BitVec.getLsbD_append]
  simp [h]

@[simp] theorem lo8_cat16 (hi lo : Byte) : lo8 (cat16 hi lo) = lo := by
  unfold lo8 cat16
  apply BitVec.eq_of_getLsbD_eq
  intro i h
  rw [BitVec.getLsbD_extractLsb', BitVec.getLsbD_append]
  simp [h]

theorem cat16_hi8_lo8 (w : Word) : cat16 (hi8 w) (lo8 w) = w := by
  unfold cat16 hi8 lo8
  apply BitVec.eq_of_getLsbD_eq
  intro i h
  rw [BitVec.getLsbD_append]
  by_cases hi : i < 8
  · simp [hi]
  · simp [hi, show 8 + (i - 8) = i by omega, show i - 8 < 8 by omega]

/-! ### `setReg` -/

@[simp] theorem State.setReg_a (r : Reg8) (v : Byte) : (s.setReg r v).a = if r = .a then v else s.a := by
  cases r <;> rfl

@[simp] theorem State.setReg_f (r : Reg8) (v : Byte) : (s.setReg r v).f = s.f := by
  cases r <;> rfl

@[simp] theorem State.setReg_b (r : Reg8) (v : Byte) : (s.setReg r v).b = if r = .b then v else s.b := by
  cases r <;> rfl

@[simp] theorem State.setReg_c (r : Reg8) (v : Byte) : (s.setReg r v).c = if r = .c then v else s.c := by
  cases r <;> rfl

@[simp] theorem State.setReg_d (r : Reg8) (v : Byte) : (s.setReg r v).d = if r = .d then v else s.d := by
  cases r <;> rfl

@[simp] theorem State.setReg_e (r : Reg8) (v : Byte) : (s.setReg r v).e = if r = .e then v else s.e := by
  cases r <;> rfl

@[simp] theorem State.setReg_h (r : Reg8) (v : Byte) : (s.setReg r v).h = if r = .h then v else s.h := by
  cases r <;> rfl

@[simp] theorem State.setReg_l (r : Reg8) (v : Byte) : (s.setReg r v).l = if r = .l then v else s.l := by
  cases r <;> rfl

@[simp] theorem State.setReg_sp (r : Reg8) (v : Byte) : (s.setReg r v).sp = s.sp := by
  cases r <;> rfl

@[simp] theorem State.setReg_pc (r : Reg8) (v : Byte) : (s.setReg r v).pc = s.pc := by
  cases r <;> rfl

@[simp] theorem State.setReg_fault (r : Reg8) (v : Byte) : (s.setReg r v).fault = s.fault := by
  cases r <;> rfl

@[simp] theorem State.setReg_mem (r : Reg8) (v : Byte) : (s.setReg r v).mem = s.mem := by
  cases r <;> rfl

/-- Reading a register after writing one. -/
theorem State.reg_setReg (q r : Reg8) (v : Byte) : (s.setReg r v).reg q = if q = r then v else s.reg q := by
  cases q <;> cases r <;> rfl

@[simp] theorem State.reg_setReg_self (r : Reg8) (v : Byte) : (s.setReg r v).reg r = v := by
  simp [State.reg_setReg]

theorem State.reg_setReg_ne {q r : Reg8} (h : q ≠ r) (v : Byte) : (s.setReg r v).reg q = s.reg q := by
  simp [State.reg_setReg, h]

/-! ### `setPair` -/

@[simp] theorem State.setPair_a (p : Pair) (v : Word) : (s.setPair p v).a = if p = .af then hi8 v else s.a := by
  cases p <;> rfl

@[simp] theorem State.setPair_f (p : Pair) (v : Word) : (s.setPair p v).f = if p = .af then maskFlags (lo8 v) else s.f := by
  cases p <;> rfl

@[simp] theorem State.setPair_b (p : Pair) (v : Word) : (s.setPair p v).b = if p = .bc then hi8 v else s.b := by
  cases p <;> rfl

@[simp] theorem State.setPair_c (p : Pair) (v : Word) : (s.setPair p v).c = if p = .bc then lo8 v else s.c := by
  cases p <;> rfl

@[simp] theorem State.setPair_d (p : Pair) (v : Word) : (s.setPair p v).d = if p = .de then hi8 v else s.d := by
  cases p <;> rfl

@[simp] theorem State.setPair_e (p : Pair) (v : Word) : (s.setPair p v).e = if p = .de then lo8 v else s.e := by
  cases p <;> rfl

@[simp] theorem State.setPair_h (p : Pair) (v : Word) : (s.setPair p v).h = if p = .hl then hi8 v else s.h := by
  cases p <;> rfl

@[simp] theorem State.setPair_l (p : Pair) (v : Word) : (s.setPair p v).l = if p = .hl then lo8 v else s.l := by
  cases p <;> rfl

@[simp] theorem State.setPair_sp (p : Pair) (v : Word) : (s.setPair p v).sp = s.sp := by
  cases p <;> rfl

@[simp] theorem State.setPair_pc (p : Pair) (v : Word) : (s.setPair p v).pc = s.pc := by
  cases p <;> rfl

@[simp] theorem State.setPair_fault (p : Pair) (v : Word) : (s.setPair p v).fault = s.fault := by
  cases p <;> rfl

@[simp] theorem State.setPair_mem (p : Pair) (v : Word) : (s.setPair p v).mem = s.mem := by
  cases p <;> rfl

/-! ### `setSp` -/

@[simp] theorem State.setSp_a (v : Word) : (s.setSp v).a = s.a := rfl

@[simp] theorem State.setSp_f (v : Word) : (s.setSp v).f = s.f := rfl

@[simp] theorem State.setSp_b (v : Word) : (s.setSp v).b = s.b := rfl

@[simp] theorem State.setSp_c (v : Word) : (s.setSp v).c = s.c := rfl

@[simp] theorem State.setSp_d (v : Word) : (s.setSp v).d = s.d := rfl

@[simp] theorem State.setSp_e (v : Word) : (s.setSp v).e = s.e := rfl

@[simp] theorem State.setSp_h (v : Word) : (s.setSp v).h = s.h := rfl

@[simp] theorem State.setSp_l (v : Word) : (s.setSp v).l = s.l := rfl

@[simp] theorem State.setSp_sp (v : Word) : (s.setSp v).sp = v := rfl

@[simp] theorem State.setSp_pc (v : Word) : (s.setSp v).pc = s.pc := rfl

@[simp] theorem State.setSp_fault (v : Word) : (s.setSp v).fault = s.fault := rfl

@[simp] theorem State.setSp_mem (v : Word) : (s.setSp v).mem = s.mem := rfl

@[simp] theorem State.reg_setSp (v : Word) (q : Reg8) : (s.setSp v).reg q = s.reg q := by cases q <;> rfl

@[simp] theorem State.pair_setSp (v : Word) (p : Pair) : (s.setSp v).pair p = s.pair p := by cases p <;> rfl

/-! ### `setPc` -/

@[simp] theorem State.setPc_a (v : Word) : (s.setPc v).a = s.a := rfl

@[simp] theorem State.setPc_f (v : Word) : (s.setPc v).f = s.f := rfl

@[simp] theorem State.setPc_b (v : Word) : (s.setPc v).b = s.b := rfl

@[simp] theorem State.setPc_c (v : Word) : (s.setPc v).c = s.c := rfl

@[simp] theorem State.setPc_d (v : Word) : (s.setPc v).d = s.d := rfl

@[simp] theorem State.setPc_e (v : Word) : (s.setPc v).e = s.e := rfl

@[simp] theorem State.setPc_h (v : Word) : (s.setPc v).h = s.h := rfl

@[simp] theorem State.setPc_l (v : Word) : (s.setPc v).l = s.l := rfl

@[simp] theorem State.setPc_sp (v : Word) : (s.setPc v).sp = s.sp := rfl

@[simp] theorem State.setPc_pc (v : Word) : (s.setPc v).pc = v := rfl

@[simp] theorem State.setPc_fault (v : Word) : (s.setPc v).fault = s.fault := rfl

@[simp] theorem State.setPc_mem (v : Word) : (s.setPc v).mem = s.mem := rfl

@[simp] theorem State.reg_setPc (v : Word) (q : Reg8) : (s.setPc v).reg q = s.reg q := by cases q <;> rfl

@[simp] theorem State.pair_setPc (v : Word) (p : Pair) : (s.setPc v).pair p = s.pair p := by cases p <;> rfl

/-! ### `setMem` -/

@[simp] theorem State.setMem_a (v : Memory) : (s.setMem v).a = s.a := rfl

@[simp] theorem State.setMem_f (v : Memory) : (s.setMem v).f = s.f := rfl

@[simp] theorem State.setMem_b (v : Memory) : (s.setMem v).b = s.b := rfl

@[simp] theorem State.setMem_c (v : Memory) : (s.setMem v).c = s.c := rfl

@[simp] theorem State.setMem_d (v : Memory) : (s.setMem v).d = s.d := rfl

@[simp] theorem State.setMem_e (v : Memory) : (s.setMem v).e = s.e := rfl

@[simp] theorem State.setMem_h (v : Memory) : (s.setMem v).h = s.h := rfl

@[simp] theorem State.setMem_l (v : Memory) : (s.setMem v).l = s.l := rfl

@[simp] theorem State.setMem_sp (v : Memory) : (s.setMem v).sp = s.sp := rfl

@[simp] theorem State.setMem_pc (v : Memory) : (s.setMem v).pc = s.pc := rfl

@[simp] theorem State.setMem_fault (v : Memory) : (s.setMem v).fault = s.fault := rfl

@[simp] theorem State.setMem_mem (v : Memory) : (s.setMem v).mem = v := rfl

@[simp] theorem State.reg_setMem (v : Memory) (q : Reg8) : (s.setMem v).reg q = s.reg q := by cases q <;> rfl

@[simp] theorem State.pair_setMem (v : Memory) (p : Pair) : (s.setMem v).pair p = s.pair p := by cases p <;> rfl

/-! ### `latch` -/

@[simp] theorem State.latch_a (v : CoreError) : (s.latch v).a = s.a := rfl

@[simp] theorem State.latch_f (v : CoreError) : (s.latch v).f = s.f := rfl

@[simp] theorem State.latch_b (v : CoreError) : (s.latch v).b = s.b := rfl

@[simp] theorem State.latch_c (v : CoreError) : (s.latch v).c = s.c := rfl

@[simp] theorem State.latch_d (v : CoreError) : (s.latch v).d = s.d := rfl

@[simp] theorem State.latch_e (v : CoreError) : (s.latch v).e = s.e := rfl

@[simp] theorem State.latch_h (v : CoreError) : (s.latch v).h = s.h := rfl

@[simp] theorem State.latch_l (v : CoreError) : (s.latch v).l = s.l := rfl

@[simp] theorem State.latch_sp (v : CoreError) : (s.latch v).sp = s.sp := rfl

@[simp] theorem State.latch_pc (v : CoreError) : (s.latch v).pc = s.pc := rfl

@[simp] theorem State.latch_fault (v : CoreError) : (s.latch v).fault = some v := rfl

@[simp] theorem State.latch_mem (v : CoreError) : (s.latch v).mem = s.mem := rfl

@[simp] theorem State.reg_latch (v : CoreError) (q : Reg8) : (s.latch v).reg q = s.reg q := by cases q <;> rfl

@[simp] theorem State.pair_latch (v : CoreError) (p : Pair) : (s.latch v).pair p = s.pair p := by cases p <;> rfl

/-! ### `incHl`, `decHl` -/

@[simp] theorem State.incHl_a : s.incHl.a = s.a := rfl

@[simp] theorem State.incHl_f : s.incHl.f = s.f := rfl

@[simp] theorem State.incHl_b : s.incHl.b = s.b := rfl

@[simp] theorem State.incHl_c : s.incHl.c = s.c := rfl

@[simp] theorem State.incHl_d : s.incHl.d = s.d := rfl

@[simp] theorem State.incHl_e : s.incHl.e = s.e := rfl

@[simp] theorem State.incHl_sp : s.incHl.sp = s.sp := rfl

@[simp] theorem State.incHl_pc : s.incHl.pc = s.pc := rfl

@[simp] theorem State.incHl_fault : s.incHl.fault = s.fault := rfl

@[simp] theorem State.incHl_mem : s.incHl.mem = s.mem := rfl

@[simp] theorem State.decHl_a : s.decHl.a = s.a := rfl

@[simp] theorem State.decHl_f : s.decHl.f = s.f := rfl

@[simp] theorem State.decHl_b : s.decHl.b = s.b := rfl

@[simp] theorem State.decHl_c : s.decHl.c = s.c := rfl

@[simp] theorem State.decHl_d : s.decHl.d = s.d := rfl

@[simp] theorem State.decHl_e : s.decHl.e = s.e := rfl

@[simp] theorem State.decHl_sp : s.decHl.sp = s.sp := rfl

@[simp] theorem State.decHl_pc : s.decHl.pc = s.pc := rfl

@[simp] theorem State.decHl_fault : s.decHl.fault = s.fault := rfl

@[simp] theorem State.decHl_mem : s.decHl.mem = s.mem := rfl

@[simp] theorem State.pair_hl_incHl : s.incHl.pair .hl = s.pair .hl + 1#16 := by
  simp [State.incHl, State.pair, State.setPair, cat16_hi8_lo8]

@[simp] theorem State.pair_hl_decHl : s.decHl.pair .hl = s.pair .hl - 1#16 := by
  simp [State.decHl, State.pair, State.setPair, cat16_hi8_lo8]

/-! ### Flags -/

/-- What `maskFlags` writes has a zero low nibble (spec/10_state.md R22). -/
theorem maskFlags_low_nibble (v : Byte) : maskFlags v &&& 0x0F#8 = 0#8 := by
  rw [maskFlags, BitVec.and_assoc]
  simp

end Sys2Proof.Machine
end

