-- ==== Sys2Proof/Laws/Ops.lean ====
section
/-!
SUPPORT. What each shared operation can do, said once. A meaning answers a next state; `Answers P r` says that `r` is a
next state with `P`, and one lemma for each operation reduces it to what follows the operation.
-/

namespace Sys2Proof.Machine

/-- `r` is a next state, and `P` holds of it. -/
def Answers (P : State → Prop) (r : Result) : Prop := ∃ t, r = .next t ∧ P t

theorem answers_next {P : State → Prop} {t : State} (h : P t) : Answers P (.next t) := ⟨t, rfl, h⟩

theorem answers_raise {P : State → Prop} {s : State} {e : CoreError} (h : P (s.latch e)) : Answers P (s.raise e) :=
  ⟨_, rfl, h⟩

/-- What holds of the answer holds of the next state. -/
theorem Answers.of_next {P : State → Prop} {r : Result} {t : State} (h : Answers P r) (hr : r = .next t) : P t := by
  obtain ⟨u, hu, hP⟩ := h
  rw [hr] at hu
  cases hu
  exact hP

theorem State.readThen_ok {s : State} {addr : Word} {v : Byte} (k : Byte → Result) (h : s.mem.read addr = .ok v) :
    s.readThen addr k = k v := by
  simp [State.readThen, h]

theorem State.readThen_error {s : State} {addr : Word} {e : CoreError} (k : Byte → Result)
    (h : s.mem.read addr = .error e) : s.readThen addr k = s.raise e := by
  simp [State.readThen, h]

theorem State.writeThen_ok {s : State} {addr : Word} {v : Byte} {m : Memory} (k : State → Result)
    (h : s.mem.write addr v = .ok m) : s.writeThen addr v k = k (s.setMem m) := by
  simp [State.writeThen, h]

theorem State.writeThen_error {s : State} {addr : Word} {v : Byte} {e : CoreError} (k : State → Result)
    (h : s.mem.write addr v = .error e) : s.writeThen addr v k = s.raise e := by
  simp [State.writeThen, h]

/-- A read either goes on with the byte, or latches `InvalidAddress(addr, read)`. -/
theorem answers_readThen {P : State → Prop} {s : State} {addr : Word} {k : Byte → Result}
    (hok : ∀ v, s.mem.read addr = .ok v → Answers P (k v))
    (herr : (CoreError.invalidAddress addr .read).Genuine s.mem → P (s.latch (.invalidAddress addr .read))) :
    Answers P (s.readThen addr k) := by
  cases h : s.mem.read addr with
  | ok v => rw [State.readThen_ok k h]; exact hok v h
  | error e =>
    obtain ⟨rfl, hg⟩ := Memory.read_error h
    rw [State.readThen_error k h]
    exact answers_raise (herr hg)

/-- A write either goes on with the byte stored, or latches one of the two write errors on the state as it was. -/
theorem answers_writeThen {P : State → Prop} {s : State} {addr : Word} {v : Byte} {k : State → Result}
    (hok : ∀ m, s.mem.write addr v = .ok m → Answers P (k (s.setMem m)))
    (herr : ∀ e, e = .invalidAddress addr .write ∨ e = .prohibitedAccess addr → e.Genuine s.mem → P (s.latch e)) :
    Answers P (s.writeThen addr v k) := by
  cases h : s.mem.write addr v with
  | ok m => rw [State.writeThen_ok k h]; exact hok m h
  | error e =>
    obtain ⟨he, hg⟩ := Memory.write_error h
    rw [State.writeThen_error k h]
    exact answers_raise (herr e he hg)

theorem answers_move {P : State → Prop} {s : State} {dst src : Reg8} (h : P (s.setReg dst (s.reg src))) :
    Answers P (s.move dst src) := answers_next h

theorem answers_load {P : State → Prop} {s : State} {dst : Reg8} {addr : Word}
    (hok : ∀ v, s.mem.read addr = .ok v → P (s.setReg dst v))
    (herr : (CoreError.invalidAddress addr .read).Genuine s.mem → P (s.latch (.invalidAddress addr .read))) :
    Answers P (s.load dst addr) :=
  answers_readThen (fun v hv => answers_next (hok v hv)) herr

theorem answers_store {P : State → Prop} {s : State} {addr : Word} {v : Byte}
    (hok : ∀ m, s.mem.write addr v = .ok m → P (s.setMem m))
    (herr : ∀ e, e = .invalidAddress addr .write ∨ e = .prohibitedAccess addr → e.Genuine s.mem → P (s.latch e)) :
    Answers P (s.store addr v) :=
  answers_writeThen (fun m hm => answers_next (hok m hm)) herr

/-- A 16-bit store stores both bytes, or the low byte alone, or nothing (spec/41_loads16.md R141). -/
theorem answers_storeWord {P : State → Prop} {s : State} {addr v : Word}
    (hok : ∀ m1 m2, s.mem.write addr (lo8 v) = .ok m1 → m1.write (addr + 1#16) (hi8 v) = .ok m2 → P (s.setMem m2))
    (herr1 : ∀ e, e = .invalidAddress addr .write ∨ e = .prohibitedAccess addr → e.Genuine s.mem → P (s.latch e))
    (herr2 : ∀ m1 e, s.mem.write addr (lo8 v) = .ok m1 →
      e = .invalidAddress (addr + 1#16) .write ∨ e = .prohibitedAccess (addr + 1#16) → e.Genuine m1 →
      P ((s.setMem m1).latch e)) :
    Answers P (s.storeWord addr v) :=
  answers_writeThen
    (fun m1 hm1 => answers_store (fun m2 hm2 => hok m1 m2 hm1 hm2) (fun e he hg => herr2 m1 e hm1 he hg)) herr1

/-- PUSH stores both bytes, or the high byte alone, or nothing; `sp` counts the writes tried
(spec/42_stack.md R150). -/
theorem answers_push {P : State → Prop} {s : State} {v : Word}
    (hok : ∀ m1 m2, s.mem.write (s.sp - 1#16) (hi8 v) = .ok m1 → m1.write (s.sp - 1#16 - 1#16) (lo8 v) = .ok m2 →
      P ((((s.setSp (s.sp - 1#16)).setMem m1).setSp (s.sp - 1#16 - 1#16)).setMem m2))
    (herr1 : ∀ e, e = .invalidAddress (s.sp - 1#16) .write ∨ e = .prohibitedAccess (s.sp - 1#16) →
      e.Genuine s.mem → P ((s.setSp (s.sp - 1#16)).latch e))
    (herr2 : ∀ m1 e, s.mem.write (s.sp - 1#16) (hi8 v) = .ok m1 →
      e = .invalidAddress (s.sp - 1#16 - 1#16) .write ∨ e = .prohibitedAccess (s.sp - 1#16 - 1#16) →
      e.Genuine m1 → P ((((s.setSp (s.sp - 1#16)).setMem m1).setSp (s.sp - 1#16 - 1#16)).latch e)) :
    Answers P (s.push v) := by
  unfold State.push
  refine answers_writeThen (s := s.setSp (s.sp - 1#16)) (fun m1 hm1 => ?_) herr1
  exact answers_store (fun m2 hm2 => hok m1 m2 hm1 hm2) (fun e he hg => herr2 m1 e hm1 he hg)

/-- POP sets the pair after both reads, or latches and leaves the pair (spec/42_stack.md R151, R152). -/
theorem answers_pop {P : State → Prop} {s : State} {p : Pair}
    (hok : ∀ lo hi, s.mem.read s.sp = .ok lo → s.mem.read (s.sp + 1#16) = .ok hi →
      P (((s.setSp (s.sp + 1#16)).setSp (s.sp + 1#16 + 1#16)).setPair p (cat16 hi lo)))
    (herr1 : (CoreError.invalidAddress s.sp .read).Genuine s.mem → P (s.latch (.invalidAddress s.sp .read)))
    (herr2 : ∀ lo, s.mem.read s.sp = .ok lo → (CoreError.invalidAddress (s.sp + 1#16) .read).Genuine s.mem →
      P ((s.setSp (s.sp + 1#16)).latch (.invalidAddress (s.sp + 1#16) .read))) :
    Answers P (s.pop p) :=
  answers_readThen
    (fun lo hlo => answers_readThen (fun hi hhi => answers_next (hok lo hi hlo hhi)) (fun hg => herr2 lo hlo hg)) herr1

/-! ### The stack operations and the 16-bit store, outcome by outcome -/

theorem sub_one_sub_one (w : Word) : w - 1#16 - 1#16 = w - 2#16 := by bv_omega

theorem add_one_add_one (w : Word) : w + 1#16 + 1#16 = w + 2#16 := by bv_omega

theorem State.push_ok {s : State} {v : Word} {m1 m2 : Memory} (h1 : s.mem.write (s.sp - 1#16) (hi8 v) = .ok m1)
    (h2 : m1.write (s.sp - 2#16) (lo8 v) = .ok m2) : s.push v = .next { s with sp := s.sp - 2#16, mem := m2 } := by
  rw [← sub_one_sub_one] at h2 ⊢
  simp [State.push, State.writeThen, State.store, h1, h2]
  rfl

theorem State.push_error_high {s : State} {v : Word} {e : CoreError}
    (h1 : s.mem.write (s.sp - 1#16) (hi8 v) = .error e) :
    s.push v = .next { s with sp := s.sp - 1#16, fault := some e } := by
  simp [State.push, State.writeThen, h1]
  rfl

theorem State.push_error_low {s : State} {v : Word} {m1 : Memory} {e : CoreError}
    (h1 : s.mem.write (s.sp - 1#16) (hi8 v) = .ok m1) (h2 : m1.write (s.sp - 2#16) (lo8 v) = .error e) :
    s.push v = .next { s with sp := s.sp - 2#16, mem := m1, fault := some e } := by
  rw [← sub_one_sub_one] at h2 ⊢
  simp [State.push, State.writeThen, State.store, h1, h2]
  rfl

theorem State.pop_ok {s : State} {p : Pair} {lo hi : Byte} (h1 : s.mem.read s.sp = .ok lo)
    (h2 : s.mem.read (s.sp + 1#16) = .ok hi) :
    s.pop p = .next ({ s with sp := s.sp + 2#16 }.setPair p (cat16 hi lo)) := by
  rw [← add_one_add_one]
  simp [State.pop, State.readThen, h1, h2]
  rfl

theorem State.pop_error_low {s : State} {p : Pair} {e : CoreError} (h1 : s.mem.read s.sp = .error e) :
    s.pop p = .next { s with fault := some e } := by
  simp [State.pop, State.readThen, h1]
  rfl

theorem State.pop_error_high {s : State} {p : Pair} {lo : Byte} {e : CoreError} (h1 : s.mem.read s.sp = .ok lo)
    (h2 : s.mem.read (s.sp + 1#16) = .error e) :
    s.pop p = .next { s with sp := s.sp + 1#16, fault := some e } := by
  simp [State.pop, State.readThen, h1, h2]
  rfl

theorem State.storeWord_ok {s : State} {addr v : Word} {m1 m2 : Memory} (h1 : s.mem.write addr (lo8 v) = .ok m1)
    (h2 : m1.write (addr + 1#16) (hi8 v) = .ok m2) : s.storeWord addr v = .next (s.setMem m2) := by
  simp [State.storeWord, State.writeThen, State.store, h1, h2]
  rfl

theorem State.storeWord_error_low {s : State} {addr v : Word} {e : CoreError}
    (h1 : s.mem.write addr (lo8 v) = .error e) : s.storeWord addr v = .next (s.latch e) := by
  simp [State.storeWord, State.writeThen, h1]
  rfl

theorem State.storeWord_error_high {s : State} {addr v : Word} {m1 : Memory} {e : CoreError}
    (h1 : s.mem.write addr (lo8 v) = .ok m1) (h2 : m1.write (addr + 1#16) (hi8 v) = .error e) :
    s.storeWord addr v = .next ((s.setMem m1).latch e) := by
  simp [State.storeWord, State.writeThen, State.store, h1, h2]
  rfl

end Sys2Proof.Machine
end

