-- ==== Sys2Proof/Laws/Exec.lean ====
section
/-!
SUPPORT. `exec` of each instruction as the shared operation it is, so that no later proof unfolds `exec` or a meaning.
-/

namespace Sys2Proof.Machine

variable (s : State)

@[simp] theorem exec_nop : exec .nop s = .next s := rfl

@[simp] theorem exec_ldBcN16 (n : Word) : exec (.ldBcN16 n) s = .next (s.setPair .bc n) := rfl

@[simp] theorem exec_ldAtBcA : exec .ldAtBcA s = s.store (s.pair .bc) s.a := rfl

@[simp] theorem exec_ldBN8 (n : Byte) : exec (.ldBN8 n) s = .next (s.setReg .b n) := rfl

@[simp] theorem exec_ldAtA16Sp (n : Word) : exec (.ldAtA16Sp n) s = s.storeWord n s.sp := rfl

@[simp] theorem exec_ldAAtBc : exec .ldAAtBc s = s.load .a (s.pair .bc) := rfl

@[simp] theorem exec_ldCN8 (n : Byte) : exec (.ldCN8 n) s = .next (s.setReg .c n) := rfl

@[simp] theorem exec_stop : exec .stop s = .next s := rfl

@[simp] theorem exec_ldDeN16 (n : Word) : exec (.ldDeN16 n) s = .next (s.setPair .de n) := rfl

@[simp] theorem exec_ldAtDeA : exec .ldAtDeA s = s.store (s.pair .de) s.a := rfl

@[simp] theorem exec_ldDN8 (n : Byte) : exec (.ldDN8 n) s = .next (s.setReg .d n) := rfl

@[simp] theorem exec_ldAAtDe : exec .ldAAtDe s = s.load .a (s.pair .de) := rfl

@[simp] theorem exec_ldEN8 (n : Byte) : exec (.ldEN8 n) s = .next (s.setReg .e n) := rfl

@[simp] theorem exec_ldHlN16 (n : Word) : exec (.ldHlN16 n) s = .next (s.setPair .hl n) := rfl

@[simp] theorem exec_ldAtHlIncA : exec .ldAtHlIncA s = s.writeThen (s.pair .hl) s.a fun t => .next t.incHl := rfl

@[simp] theorem exec_ldHN8 (n : Byte) : exec (.ldHN8 n) s = .next (s.setReg .h n) := rfl

@[simp] theorem exec_ldAAtHlInc : exec .ldAAtHlInc s = s.readThen (s.pair .hl) fun v => .next (s.setReg .a v).incHl := rfl

@[simp] theorem exec_ldLN8 (n : Byte) : exec (.ldLN8 n) s = .next (s.setReg .l n) := rfl

@[simp] theorem exec_ldSpN16 (n : Word) : exec (.ldSpN16 n) s = .next (s.setSp n) := rfl

@[simp] theorem exec_ldAtHlDecA : exec .ldAtHlDecA s = s.writeThen (s.pair .hl) s.a fun t => .next t.decHl := rfl

@[simp] theorem exec_ldAtHlN8 (n : Byte) : exec (.ldAtHlN8 n) s = s.store (s.pair .hl) n := rfl

@[simp] theorem exec_ldAAtHlDec : exec .ldAAtHlDec s = s.readThen (s.pair .hl) fun v => .next (s.setReg .a v).decHl := rfl

@[simp] theorem exec_ldAN8 (n : Byte) : exec (.ldAN8 n) s = .next (s.setReg .a n) := rfl

@[simp] theorem exec_ldBB : exec .ldBB s = s.move .b .b := rfl

@[simp] theorem exec_ldBC : exec .ldBC s = s.move .b .c := rfl

@[simp] theorem exec_ldBD : exec .ldBD s = s.move .b .d := rfl

@[simp] theorem exec_ldBE : exec .ldBE s = s.move .b .e := rfl

@[simp] theorem exec_ldBH : exec .ldBH s = s.move .b .h := rfl

@[simp] theorem exec_ldBL : exec .ldBL s = s.move .b .l := rfl

@[simp] theorem exec_ldBAtHl : exec .ldBAtHl s = s.load .b (s.pair .hl) := rfl

@[simp] theorem exec_ldBA : exec .ldBA s = s.move .b .a := rfl

@[simp] theorem exec_ldCB : exec .ldCB s = s.move .c .b := rfl

@[simp] theorem exec_ldCC : exec .ldCC s = s.move .c .c := rfl

@[simp] theorem exec_ldCD : exec .ldCD s = s.move .c .d := rfl

@[simp] theorem exec_ldCE : exec .ldCE s = s.move .c .e := rfl

@[simp] theorem exec_ldCH : exec .ldCH s = s.move .c .h := rfl

@[simp] theorem exec_ldCL : exec .ldCL s = s.move .c .l := rfl

@[simp] theorem exec_ldCAtHl : exec .ldCAtHl s = s.load .c (s.pair .hl) := rfl

@[simp] theorem exec_ldCA : exec .ldCA s = s.move .c .a := rfl

@[simp] theorem exec_ldDB : exec .ldDB s = s.move .d .b := rfl

@[simp] theorem exec_ldDC : exec .ldDC s = s.move .d .c := rfl

@[simp] theorem exec_ldDD : exec .ldDD s = s.move .d .d := rfl

@[simp] theorem exec_ldDE : exec .ldDE s = s.move .d .e := rfl

@[simp] theorem exec_ldDH : exec .ldDH s = s.move .d .h := rfl

@[simp] theorem exec_ldDL : exec .ldDL s = s.move .d .l := rfl

@[simp] theorem exec_ldDAtHl : exec .ldDAtHl s = s.load .d (s.pair .hl) := rfl

@[simp] theorem exec_ldDA : exec .ldDA s = s.move .d .a := rfl

@[simp] theorem exec_ldEB : exec .ldEB s = s.move .e .b := rfl

@[simp] theorem exec_ldEC : exec .ldEC s = s.move .e .c := rfl

@[simp] theorem exec_ldED : exec .ldED s = s.move .e .d := rfl

@[simp] theorem exec_ldEE : exec .ldEE s = s.move .e .e := rfl

@[simp] theorem exec_ldEH : exec .ldEH s = s.move .e .h := rfl

@[simp] theorem exec_ldEL : exec .ldEL s = s.move .e .l := rfl

@[simp] theorem exec_ldEAtHl : exec .ldEAtHl s = s.load .e (s.pair .hl) := rfl

@[simp] theorem exec_ldEA : exec .ldEA s = s.move .e .a := rfl

@[simp] theorem exec_ldHB : exec .ldHB s = s.move .h .b := rfl

@[simp] theorem exec_ldHC : exec .ldHC s = s.move .h .c := rfl

@[simp] theorem exec_ldHD : exec .ldHD s = s.move .h .d := rfl

@[simp] theorem exec_ldHE : exec .ldHE s = s.move .h .e := rfl

@[simp] theorem exec_ldHH : exec .ldHH s = s.move .h .h := rfl

@[simp] theorem exec_ldHL : exec .ldHL s = s.move .h .l := rfl

@[simp] theorem exec_ldHAtHl : exec .ldHAtHl s = s.load .h (s.pair .hl) := rfl

@[simp] theorem exec_ldHA : exec .ldHA s = s.move .h .a := rfl

@[simp] theorem exec_ldLB : exec .ldLB s = s.move .l .b := rfl

@[simp] theorem exec_ldLC : exec .ldLC s = s.move .l .c := rfl

@[simp] theorem exec_ldLD : exec .ldLD s = s.move .l .d := rfl

@[simp] theorem exec_ldLE : exec .ldLE s = s.move .l .e := rfl

@[simp] theorem exec_ldLH : exec .ldLH s = s.move .l .h := rfl

@[simp] theorem exec_ldLL : exec .ldLL s = s.move .l .l := rfl

@[simp] theorem exec_ldLAtHl : exec .ldLAtHl s = s.load .l (s.pair .hl) := rfl

@[simp] theorem exec_ldLA : exec .ldLA s = s.move .l .a := rfl

@[simp] theorem exec_ldAtHlB : exec .ldAtHlB s = s.store (s.pair .hl) s.b := rfl

@[simp] theorem exec_ldAtHlC : exec .ldAtHlC s = s.store (s.pair .hl) s.c := rfl

@[simp] theorem exec_ldAtHlD : exec .ldAtHlD s = s.store (s.pair .hl) s.d := rfl

@[simp] theorem exec_ldAtHlE : exec .ldAtHlE s = s.store (s.pair .hl) s.e := rfl

@[simp] theorem exec_ldAtHlH : exec .ldAtHlH s = s.store (s.pair .hl) s.h := rfl

@[simp] theorem exec_ldAtHlL : exec .ldAtHlL s = s.store (s.pair .hl) s.l := rfl

@[simp] theorem exec_ldAtHlA : exec .ldAtHlA s = s.store (s.pair .hl) s.a := rfl

@[simp] theorem exec_ldAB : exec .ldAB s = s.move .a .b := rfl

@[simp] theorem exec_ldAC : exec .ldAC s = s.move .a .c := rfl

@[simp] theorem exec_ldAD : exec .ldAD s = s.move .a .d := rfl

@[simp] theorem exec_ldAE : exec .ldAE s = s.move .a .e := rfl

@[simp] theorem exec_ldAH : exec .ldAH s = s.move .a .h := rfl

@[simp] theorem exec_ldAL : exec .ldAL s = s.move .a .l := rfl

@[simp] theorem exec_ldAAtHl : exec .ldAAtHl s = s.load .a (s.pair .hl) := rfl

@[simp] theorem exec_ldAA : exec .ldAA s = s.move .a .a := rfl

@[simp] theorem exec_popBc : exec .popBc s = s.pop .bc := rfl

@[simp] theorem exec_pushBc : exec .pushBc s = s.push (s.pair .bc) := rfl

@[simp] theorem exec_popDe : exec .popDe s = s.pop .de := rfl

@[simp] theorem exec_pushDe : exec .pushDe s = s.push (s.pair .de) := rfl

@[simp] theorem exec_ldhAtA8A (n : Byte) : exec (.ldhAtA8A n) s = s.store (portAddress n) s.a := rfl

@[simp] theorem exec_popHl : exec .popHl s = s.pop .hl := rfl

@[simp] theorem exec_ldhAtCA : exec .ldhAtCA s = s.store (portAddress s.c) s.a := rfl

@[simp] theorem exec_pushHl : exec .pushHl s = s.push (s.pair .hl) := rfl

@[simp] theorem exec_ldAtA16A (n : Word) : exec (.ldAtA16A n) s = s.store n s.a := rfl

@[simp] theorem exec_ldhAAtA8 (n : Byte) : exec (.ldhAAtA8 n) s = s.load .a (portAddress n) := rfl

@[simp] theorem exec_popAf : exec .popAf s = s.pop .af := rfl

@[simp] theorem exec_ldhAAtC : exec .ldhAAtC s = s.load .a (portAddress s.c) := rfl

@[simp] theorem exec_pushAf : exec .pushAf s = s.push (s.pair .af) := rfl

@[simp] theorem exec_ldSpHl : exec .ldSpHl s = .next (s.setSp (s.pair .hl)) := rfl

@[simp] theorem exec_ldAAtA16 (n : Word) : exec (.ldAAtA16 n) s = s.load .a n := rfl

end Sys2Proof.Machine
end

