-- ==== Sys2Proof/Laws/Fetch.lean ====
section
/-!
SUPPORT. What fetching can do, said once, over the bytes that stand at `pc`.
-/

namespace Sys2Proof.Machine

theorem holdsAt_cons {m : Memory} {addr : Word} {v : Byte} {vs : List Byte} :
    holdsAt m addr (v :: vs) = true ↔ m.read addr = .ok v ∧ holdsAt m (addr + 1#16) vs = true := by
  simp only [holdsAt]
  cases m.read addr with
  | ok w => simp [Bool.and_eq_true]
  | error e => simp

theorem State.fetchByte_ok {s : State} {v : Byte} (h : s.mem.read s.pc = .ok v) :
    s.fetchByte = .ok (v, s.setPc (s.pc + 1#16)) := by
  simp [State.fetchByte, h]

theorem State.fetchByte_error {s : State} {e : CoreError} (h : s.mem.read s.pc = .error e) :
    s.fetchByte = .error e := by
  simp [State.fetchByte, h]

@[simp] theorem State.setPc_setPc (s : State) (v w : Word) : (s.setPc v).setPc w = s.setPc w := rfl

@[simp] theorem State.setPc_self (s : State) : s.setPc s.pc = s := rfl

theorem ofNat_succ_word (n : Nat) : BitVec.ofNat 16 (n + 1) = 1#16 + BitVec.ofNat 16 n := by
  rw [Nat.add_comm, BitVec.ofNat_add]

/-- Bytes that stand at `pc` are fetched, and `pc` is past them. -/
theorem State.fetchBytes_of_holdsAt {s : State} {vs : List Byte} (h : holdsAt s.mem s.pc vs = true) :
    s.fetchBytes vs.length = .ok (vs, s.setPc (s.pc + BitVec.ofNat 16 vs.length)) := by
  induction vs generalizing s with
  | nil => simp [State.fetchBytes]
  | cons v vs ih =>
    obtain ⟨hv, hvs⟩ := holdsAt_cons.mp h
    have hrest := ih (s := s.setPc (s.pc + 1#16)) hvs
    simp only [List.length_cons, State.fetchBytes, State.fetchByte_ok hv, hrest, State.setPc_pc, State.setPc_setPc]
    rw [ofNat_succ_word vs.length, BitVec.add_assoc]

/-- A fetch that fails after `vs` leaves `pc` at the failing address. -/
theorem State.fetchBytes_error {s : State} {vs : List Byte} {e : CoreError} {n : Nat} (hn : vs.length < n)
    (h : holdsAt s.mem s.pc vs = true) (he : s.mem.read (s.pc + BitVec.ofNat 16 vs.length) = .error e) :
    s.fetchBytes n = .error (e, s.setPc (s.pc + BitVec.ofNat 16 vs.length)) := by
  induction vs generalizing s n with
  | nil =>
    cases n with
    | zero => exact absurd hn (by simp)
    | succ n =>
      have he' : s.mem.read s.pc = .error e := by simpa using he
      simp [State.fetchBytes, State.fetchByte_error he']
  | cons v vs ih =>
    cases n with
    | zero => exact absurd hn (by simp)
    | succ n =>
      obtain ⟨hv, hvs⟩ := holdsAt_cons.mp h
      have hpc : s.pc + BitVec.ofNat 16 (v :: vs).length = s.pc + 1#16 + BitVec.ofNat 16 vs.length := by
        rw [List.length_cons, ofNat_succ_word vs.length, BitVec.add_assoc]
      have hrest := ih (s := s.setPc (s.pc + 1#16)) (n := n) (by simpa using hn) hvs (by rw [hpc] at he; exact he)
      simp only [State.fetchBytes, State.fetchByte_ok hv, hrest, State.setPc_pc, State.setPc_setPc, hpc]

/-- What the fetch of one instruction reads, whatever it answers: it changes `pc` alone. -/
theorem State.fetchBytes_frame {s t : State} {n : Nat} {vs : List Byte} (h : s.fetchBytes n = .ok (vs, t)) :
    vs.length = n ∧ holdsAt s.mem s.pc vs = true ∧ t = s.setPc (s.pc + BitVec.ofNat 16 n) := by
  induction n generalizing s vs with
  | zero =>
    simp only [State.fetchBytes, Except.ok.injEq, Prod.mk.injEq] at h
    obtain ⟨rfl, rfl⟩ := h
    exact ⟨rfl, rfl, by simp⟩
  | succ n ih =>
    cases hr : s.mem.read s.pc with
    | error e => simp [State.fetchBytes, State.fetchByte_error hr] at h
    | ok v =>
      simp only [State.fetchBytes, State.fetchByte_ok hr] at h
      cases hrest : (s.setPc (s.pc + 1#16)).fetchBytes n with
      | error x => simp [hrest] at h
      | ok p =>
        obtain ⟨ws, u⟩ := p
        simp only [hrest, Except.ok.injEq, Prod.mk.injEq] at h
        obtain ⟨rfl, rfl⟩ := h
        obtain ⟨hlen, hat, rfl⟩ := ih hrest
        refine ⟨by simp [hlen], holdsAt_cons.mpr ⟨hr, hat⟩, ?_⟩
        rw [State.setPc_pc, State.setPc_setPc, ofNat_succ_word n, BitVec.add_assoc]

/-- A failed fetch of bytes moved `pc` alone, by fewer than `n`, and the error is that of the read there. -/
theorem State.fetchBytes_error_frame {s t : State} {n : Nat} {e : CoreError} (h : s.fetchBytes n = .error (e, t)) :
    ∃ k, k < n ∧ t = s.setPc (s.pc + BitVec.ofNat 16 k) ∧ s.mem.read t.pc = .error e := by
  induction n generalizing s with
  | zero => simp [State.fetchBytes] at h
  | succ n ih =>
    cases hr : s.mem.read s.pc with
    | error e' =>
      simp only [State.fetchBytes, State.fetchByte_error hr, Except.error.injEq, Prod.mk.injEq] at h
      obtain ⟨rfl, rfl⟩ := h
      exact ⟨0, by omega, by simp, hr⟩
    | ok v =>
      simp only [State.fetchBytes, State.fetchByte_ok hr] at h
      cases hrest : (s.setPc (s.pc + 1#16)).fetchBytes n with
      | ok p => simp [hrest] at h
      | error x =>
        obtain ⟨e', u⟩ := x
        simp only [hrest, Except.error.injEq, Prod.mk.injEq] at h
        obtain ⟨rfl, rfl⟩ := h
        obtain ⟨k, hk, rfl, he⟩ := ih hrest
        refine ⟨k + 1, by omega, ?_, he⟩
        rw [State.setPc_pc, State.setPc_setPc, ofNat_succ_word k, BitVec.add_assoc]

/-! ### `step` on each side of the latch -/

theorem step_latched {s : State} {e : CoreError} (h : s.fault = some e) : step s = .fault (.latched e) := by
  simp [step, h]

theorem step_of_fetchInstr_ok {s t : State} {i : Instr} (hf : s.fault = none) (h : s.fetchInstr = .ok (i, t)) :
    step s = exec i t := by
  simp [step, hf, h]

theorem step_of_fetchInstr_error {s t : State} {e : CoreError} (hf : s.fault = none)
    (h : s.fetchInstr = .error (e, t)) : step s = .next (t.latch e) := by
  simp [step, hf, h, State.raise]

end Sys2Proof.Machine
end

