-- ==== Sys2Proof/Laws/Memory.lean ====
section
/-!
SUPPORT. The operations on whole memories keep the canonical form: placing bytes, power-on, loading, the host's reset.
That a write keeps it is `Memory.write_wf` in Laws/Bus.lean.
-/

namespace Sys2Proof.Machine

/-- A store within a size is within a larger one. -/
theorem Store.wfFrom_of_size_le {size size' lo : Nat} {m : Store} (h : wfFrom size lo m = true) (hle : size ≤ size') :
    wfFrom size' lo m = true := by
  induction m generalizing lo with
  | nil => rfl
  | cons cell rest ih =>
    obtain ⟨j, w⟩ := cell
    simp only [wfFrom, Bool.and_eq_true, decide_eq_true_eq] at h ⊢
    exact ⟨⟨⟨h.1.1.1, by omega⟩, h.1.2⟩, ih h.2⟩

/-- Placing a byte keeps the canonical form; a byte past the cartridge's end grows CART_LEN to hold it. -/
theorem Memory.place_wf {m : Memory} (addr : Word) (v : Byte) (h : m.wf = true) : (m.place addr v).wf = true := by
  have hst := (Memory.wf_iff m).mp h
  unfold Memory.place
  cases hr : route .read addr with
  | prohibited => exact h
  | unmapped => exact h
  | cell id k =>
    by_cases hid : id = .cart
    · subst hid
      rw [Memory.wf_iff]
      intro j
      cases j
      · have hbig := Store.wfFrom_of_size_le (hst .cart) (Nat.le_max_left m.cartLen (k + 1))
        exact Store.wf_set v hbig (Nat.lt_of_lt_of_le (Nat.lt_succ_self k) (Nat.le_max_right m.cartLen (k + 1)))
      · exact hst .vram
      · exact hst .wram
      · exact hst .oam
      · exact hst .hram
    · have hk := route_index_lt m hr hid
      have hset : (m.setStore id ((m.store id).set k v)).wf = true := by
        rw [Memory.wf_iff]
        intro j
        rw [Memory.size_setStore, Memory.store_setStore]
        split
        · next hj => subst hj; exact Store.wf_set v (hst j) hk
        · exact hst j
      cases id
      · exact absurd rfl hid
      all_goals exact hset

theorem Memory.placeBytes_wf {m : Memory} (addr : Word) (bytes : List Byte) (h : m.wf = true) :
    (m.placeBytes addr bytes).wf = true := by
  induction bytes generalizing m addr with
  | nil => exact h
  | cons v vs ih => exact ih (addr + 1#16) (Memory.place_wf addr v h)

theorem State.placeAtPc_mem_wf {s : State} (bytes : List Byte) (h : s.mem.wf = true) :
    (s.placeAtPc bytes).mem.wf = true := Memory.placeBytes_wf _ bytes h

/-- The memory at power-on is canonical, for every draw. -/
theorem State.powerOn_mem_wf (ram : InitRam) : (State.powerOn ram).mem.wf = true := by
  have key : ∀ (bytes : List Byte) (n : Nat), (Store.ofBytes (bytes.take n)).wf n = true := fun bytes n =>
    Store.wf_ofBytes _ (by rw [List.length_take]; exact Nat.min_le_left _ _)
  rw [Memory.wf_iff]
  intro i
  cases i
  · rfl
  all_goals exact key _ _

theorem State.reset_mem_wf : State.reset.mem.wf = true := State.powerOn_mem_wf _

theorem State.loadImage_mem_wf {s : State} (image : List Byte) (h : s.mem.wf = true) :
    (s.loadImage image).mem.wf = true := by
  have hst := (Memory.wf_iff s.mem).mp h
  rw [Memory.wf_iff]
  intro i
  cases i
  · exact Store.wf_ofBytes image (Nat.le_refl _)
  · exact hst .vram
  · exact hst .wram
  · exact hst .oam
  · exact hst .hram

theorem State.hostReset_mem_wf {s : State} (ram : InitRam) (h : s.mem.wf = true) : (s.hostReset ram).mem.wf = true := by
  have hst := (Memory.wf_iff s.mem).mp h
  have hnew := (Memory.wf_iff (State.powerOn ram).mem).mp (State.powerOn_mem_wf ram)
  rw [Memory.wf_iff]
  intro i
  cases i
  · exact hst .cart
  · exact hnew .vram
  · exact hnew .wram
  · exact hnew .oam
  · exact hnew .hram

end Sys2Proof.Machine
end

