-- ==== Sys2Proof/Laws/PerInstr.lean ====
section
/-!
SUPPORT. The family `EncodeLength`, one lemma for each instruction: its opcode byte has a row of its own format, its
encoding is as long as that format says, and it is well formed (spec/30_encoding.md R70, R80).
-/

namespace Sys2Proof.Laws.EncodeLength

/-- The opcode's row, the length of the encoding and the format agree. -/
def Statement (i : Instr) : Prop :=
  (∃ row, opcodeRow i.opcode = some row ∧ row.operandBytes = i.format.operandBytes) ∧
    (encode i).length = i.length ∧ i.wf = true

theorem nop : Statement .nop := ⟨⟨_, rfl, rfl⟩, rfl, rfl⟩

theorem ldBcN16 (n : Word) : Statement (.ldBcN16 n) := ⟨⟨_, rfl, rfl⟩, rfl, rfl⟩

theorem ldAtBcA : Statement .ldAtBcA := ⟨⟨_, rfl, rfl⟩, rfl, rfl⟩

theorem ldBN8 (n : Byte) : Statement (.ldBN8 n) := ⟨⟨_, rfl, rfl⟩, rfl, rfl⟩

theorem ldAtA16Sp (n : Word) : Statement (.ldAtA16Sp n) := ⟨⟨_, rfl, rfl⟩, rfl, rfl⟩

theorem ldAAtBc : Statement .ldAAtBc := ⟨⟨_, rfl, rfl⟩, rfl, rfl⟩

theorem ldCN8 (n : Byte) : Statement (.ldCN8 n) := ⟨⟨_, rfl, rfl⟩, rfl, rfl⟩

theorem stop : Statement .stop := ⟨⟨_, rfl, rfl⟩, rfl, rfl⟩

theorem ldDeN16 (n : Word) : Statement (.ldDeN16 n) := ⟨⟨_, rfl, rfl⟩, rfl, rfl⟩

theorem ldAtDeA : Statement .ldAtDeA := ⟨⟨_, rfl, rfl⟩, rfl, rfl⟩

theorem ldDN8 (n : Byte) : Statement (.ldDN8 n) := ⟨⟨_, rfl, rfl⟩, rfl, rfl⟩

theorem ldAAtDe : Statement .ldAAtDe := ⟨⟨_, rfl, rfl⟩, rfl, rfl⟩

theorem ldEN8 (n : Byte) : Statement (.ldEN8 n) := ⟨⟨_, rfl, rfl⟩, rfl, rfl⟩

theorem ldHlN16 (n : Word) : Statement (.ldHlN16 n) := ⟨⟨_, rfl, rfl⟩, rfl, rfl⟩

theorem ldAtHlIncA : Statement .ldAtHlIncA := ⟨⟨_, rfl, rfl⟩, rfl, rfl⟩

theorem ldHN8 (n : Byte) : Statement (.ldHN8 n) := ⟨⟨_, rfl, rfl⟩, rfl, rfl⟩

theorem ldAAtHlInc : Statement .ldAAtHlInc := ⟨⟨_, rfl, rfl⟩, rfl, rfl⟩

theorem ldLN8 (n : Byte) : Statement (.ldLN8 n) := ⟨⟨_, rfl, rfl⟩, rfl, rfl⟩

theorem ldSpN16 (n : Word) : Statement (.ldSpN16 n) := ⟨⟨_, rfl, rfl⟩, rfl, rfl⟩

theorem ldAtHlDecA : Statement .ldAtHlDecA := ⟨⟨_, rfl, rfl⟩, rfl, rfl⟩

theorem ldAtHlN8 (n : Byte) : Statement (.ldAtHlN8 n) := ⟨⟨_, rfl, rfl⟩, rfl, rfl⟩

theorem ldAAtHlDec : Statement .ldAAtHlDec := ⟨⟨_, rfl, rfl⟩, rfl, rfl⟩

theorem ldAN8 (n : Byte) : Statement (.ldAN8 n) := ⟨⟨_, rfl, rfl⟩, rfl, rfl⟩

theorem ldBB : Statement .ldBB := ⟨⟨_, rfl, rfl⟩, rfl, rfl⟩

theorem ldBC : Statement .ldBC := ⟨⟨_, rfl, rfl⟩, rfl, rfl⟩

theorem ldBD : Statement .ldBD := ⟨⟨_, rfl, rfl⟩, rfl, rfl⟩

theorem ldBE : Statement .ldBE := ⟨⟨_, rfl, rfl⟩, rfl, rfl⟩

theorem ldBH : Statement .ldBH := ⟨⟨_, rfl, rfl⟩, rfl, rfl⟩

theorem ldBL : Statement .ldBL := ⟨⟨_, rfl, rfl⟩, rfl, rfl⟩

theorem ldBAtHl : Statement .ldBAtHl := ⟨⟨_, rfl, rfl⟩, rfl, rfl⟩

theorem ldBA : Statement .ldBA := ⟨⟨_, rfl, rfl⟩, rfl, rfl⟩

theorem ldCB : Statement .ldCB := ⟨⟨_, rfl, rfl⟩, rfl, rfl⟩

theorem ldCC : Statement .ldCC := ⟨⟨_, rfl, rfl⟩, rfl, rfl⟩

theorem ldCD : Statement .ldCD := ⟨⟨_, rfl, rfl⟩, rfl, rfl⟩

theorem ldCE : Statement .ldCE := ⟨⟨_, rfl, rfl⟩, rfl, rfl⟩

theorem ldCH : Statement .ldCH := ⟨⟨_, rfl, rfl⟩, rfl, rfl⟩

theorem ldCL : Statement .ldCL := ⟨⟨_, rfl, rfl⟩, rfl, rfl⟩

theorem ldCAtHl : Statement .ldCAtHl := ⟨⟨_, rfl, rfl⟩, rfl, rfl⟩

theorem ldCA : Statement .ldCA := ⟨⟨_, rfl, rfl⟩, rfl, rfl⟩

theorem ldDB : Statement .ldDB := ⟨⟨_, rfl, rfl⟩, rfl, rfl⟩

theorem ldDC : Statement .ldDC := ⟨⟨_, rfl, rfl⟩, rfl, rfl⟩

theorem ldDD : Statement .ldDD := ⟨⟨_, rfl, rfl⟩, rfl, rfl⟩

theorem ldDE : Statement .ldDE := ⟨⟨_, rfl, rfl⟩, rfl, rfl⟩

theorem ldDH : Statement .ldDH := ⟨⟨_, rfl, rfl⟩, rfl, rfl⟩

theorem ldDL : Statement .ldDL := ⟨⟨_, rfl, rfl⟩, rfl, rfl⟩

theorem ldDAtHl : Statement .ldDAtHl := ⟨⟨_, rfl, rfl⟩, rfl, rfl⟩

theorem ldDA : Statement .ldDA := ⟨⟨_, rfl, rfl⟩, rfl, rfl⟩

theorem ldEB : Statement .ldEB := ⟨⟨_, rfl, rfl⟩, rfl, rfl⟩

theorem ldEC : Statement .ldEC := ⟨⟨_, rfl, rfl⟩, rfl, rfl⟩

theorem ldED : Statement .ldED := ⟨⟨_, rfl, rfl⟩, rfl, rfl⟩

theorem ldEE : Statement .ldEE := ⟨⟨_, rfl, rfl⟩, rfl, rfl⟩

theorem ldEH : Statement .ldEH := ⟨⟨_, rfl, rfl⟩, rfl, rfl⟩

theorem ldEL : Statement .ldEL := ⟨⟨_, rfl, rfl⟩, rfl, rfl⟩

theorem ldEAtHl : Statement .ldEAtHl := ⟨⟨_, rfl, rfl⟩, rfl, rfl⟩

theorem ldEA : Statement .ldEA := ⟨⟨_, rfl, rfl⟩, rfl, rfl⟩

theorem ldHB : Statement .ldHB := ⟨⟨_, rfl, rfl⟩, rfl, rfl⟩

theorem ldHC : Statement .ldHC := ⟨⟨_, rfl, rfl⟩, rfl, rfl⟩

theorem ldHD : Statement .ldHD := ⟨⟨_, rfl, rfl⟩, rfl, rfl⟩

theorem ldHE : Statement .ldHE := ⟨⟨_, rfl, rfl⟩, rfl, rfl⟩

theorem ldHH : Statement .ldHH := ⟨⟨_, rfl, rfl⟩, rfl, rfl⟩

theorem ldHL : Statement .ldHL := ⟨⟨_, rfl, rfl⟩, rfl, rfl⟩

theorem ldHAtHl : Statement .ldHAtHl := ⟨⟨_, rfl, rfl⟩, rfl, rfl⟩

theorem ldHA : Statement .ldHA := ⟨⟨_, rfl, rfl⟩, rfl, rfl⟩

theorem ldLB : Statement .ldLB := ⟨⟨_, rfl, rfl⟩, rfl, rfl⟩

theorem ldLC : Statement .ldLC := ⟨⟨_, rfl, rfl⟩, rfl, rfl⟩

theorem ldLD : Statement .ldLD := ⟨⟨_, rfl, rfl⟩, rfl, rfl⟩

theorem ldLE : Statement .ldLE := ⟨⟨_, rfl, rfl⟩, rfl, rfl⟩

theorem ldLH : Statement .ldLH := ⟨⟨_, rfl, rfl⟩, rfl, rfl⟩

theorem ldLL : Statement .ldLL := ⟨⟨_, rfl, rfl⟩, rfl, rfl⟩

theorem ldLAtHl : Statement .ldLAtHl := ⟨⟨_, rfl, rfl⟩, rfl, rfl⟩

theorem ldLA : Statement .ldLA := ⟨⟨_, rfl, rfl⟩, rfl, rfl⟩

theorem ldAtHlB : Statement .ldAtHlB := ⟨⟨_, rfl, rfl⟩, rfl, rfl⟩

theorem ldAtHlC : Statement .ldAtHlC := ⟨⟨_, rfl, rfl⟩, rfl, rfl⟩

theorem ldAtHlD : Statement .ldAtHlD := ⟨⟨_, rfl, rfl⟩, rfl, rfl⟩

theorem ldAtHlE : Statement .ldAtHlE := ⟨⟨_, rfl, rfl⟩, rfl, rfl⟩

theorem ldAtHlH : Statement .ldAtHlH := ⟨⟨_, rfl, rfl⟩, rfl, rfl⟩

theorem ldAtHlL : Statement .ldAtHlL := ⟨⟨_, rfl, rfl⟩, rfl, rfl⟩

theorem ldAtHlA : Statement .ldAtHlA := ⟨⟨_, rfl, rfl⟩, rfl, rfl⟩

theorem ldAB : Statement .ldAB := ⟨⟨_, rfl, rfl⟩, rfl, rfl⟩

theorem ldAC : Statement .ldAC := ⟨⟨_, rfl, rfl⟩, rfl, rfl⟩

theorem ldAD : Statement .ldAD := ⟨⟨_, rfl, rfl⟩, rfl, rfl⟩

theorem ldAE : Statement .ldAE := ⟨⟨_, rfl, rfl⟩, rfl, rfl⟩

theorem ldAH : Statement .ldAH := ⟨⟨_, rfl, rfl⟩, rfl, rfl⟩

theorem ldAL : Statement .ldAL := ⟨⟨_, rfl, rfl⟩, rfl, rfl⟩

theorem ldAAtHl : Statement .ldAAtHl := ⟨⟨_, rfl, rfl⟩, rfl, rfl⟩

theorem ldAA : Statement .ldAA := ⟨⟨_, rfl, rfl⟩, rfl, rfl⟩

theorem popBc : Statement .popBc := ⟨⟨_, rfl, rfl⟩, rfl, rfl⟩

theorem pushBc : Statement .pushBc := ⟨⟨_, rfl, rfl⟩, rfl, rfl⟩

theorem popDe : Statement .popDe := ⟨⟨_, rfl, rfl⟩, rfl, rfl⟩

theorem pushDe : Statement .pushDe := ⟨⟨_, rfl, rfl⟩, rfl, rfl⟩

theorem ldhAtA8A (n : Byte) : Statement (.ldhAtA8A n) := ⟨⟨_, rfl, rfl⟩, rfl, rfl⟩

theorem popHl : Statement .popHl := ⟨⟨_, rfl, rfl⟩, rfl, rfl⟩

theorem ldhAtCA : Statement .ldhAtCA := ⟨⟨_, rfl, rfl⟩, rfl, rfl⟩

theorem pushHl : Statement .pushHl := ⟨⟨_, rfl, rfl⟩, rfl, rfl⟩

theorem ldAtA16A (n : Word) : Statement (.ldAtA16A n) := ⟨⟨_, rfl, rfl⟩, rfl, rfl⟩

theorem ldhAAtA8 (n : Byte) : Statement (.ldhAAtA8 n) := ⟨⟨_, rfl, rfl⟩, rfl, rfl⟩

theorem popAf : Statement .popAf := ⟨⟨_, rfl, rfl⟩, rfl, rfl⟩

theorem ldhAAtC : Statement .ldhAAtC := ⟨⟨_, rfl, rfl⟩, rfl, rfl⟩

theorem pushAf : Statement .pushAf := ⟨⟨_, rfl, rfl⟩, rfl, rfl⟩

theorem ldSpHl : Statement .ldSpHl := ⟨⟨_, rfl, rfl⟩, rfl, rfl⟩

theorem ldAAtA16 (n : Word) : Statement (.ldAAtA16 n) := ⟨⟨_, rfl, rfl⟩, rfl, rfl⟩

end Sys2Proof.Laws.EncodeLength
end

