-- ==== Sys2Proof/Laws/Step.lean ====
section
/-!
SUPPORT. What fetching one instruction and one step can do, said once in each direction.
-/

namespace Sys2Proof.Machine

/-- Bytes that decode to an instruction and stand at `pc` are fetched as that instruction. -/
theorem State.fetchInstr_of_decode {s : State} {bytes rest : List Byte} {i : Instr}
    (h : holdsAt s.mem s.pc bytes = true) (hd : decode bytes = .ok (i, rest)) :
    s.fetchInstr = .ok (i, s.setPc (s.pc + BitVec.ofNat 16 (bytes.length - rest.length))) := by
  cases bytes with
  | nil => simp [decode] at hd
  | cons op tl =>
    obtain ⟨hop, htl⟩ := holdsAt_cons.mp h
    simp only [State.fetchInstr, State.fetchByte_ok hop]
    simp only [decode] at hd
    cases hr : opcodeRow op with
    | none => simp [hr] at hd
    | some row =>
      simp only [hr] at hd
      cases row with
      | f0 j =>
        simp only [Except.ok.injEq, Prod.mk.injEq] at hd
        obtain ⟨rfl, rfl⟩ := hd
        simp [Row.operandBytes, State.fetchBytes, decode, hr]
      | f1 mk =>
        match tl with
        | [] => simp at hd
        | v :: tl =>
          simp only [Except.ok.injEq, Prod.mk.injEq] at hd
          obtain ⟨rfl, rfl⟩ := hd
          have hat : holdsAt (s.setPc (s.pc + 1#16)).mem (s.setPc (s.pc + 1#16)).pc [v] = true :=
            holdsAt_cons.mpr ⟨(holdsAt_cons.mp htl).1, rfl⟩
          have hf := State.fetchBytes_of_holdsAt hat
          simp only [List.length_singleton] at hf
          simp only [Row.operandBytes, hf, decode, hr]
          simp [show tl.length + 1 + 1 - tl.length = 2 by omega, BitVec.add_assoc]
      | f2 mk =>
        match tl with
        | [] => simp at hd
        | [_] => simp at hd
        | v :: w :: tl =>
          simp only [Except.ok.injEq, Prod.mk.injEq] at hd
          obtain ⟨rfl, rfl⟩ := hd
          have hat : holdsAt (s.setPc (s.pc + 1#16)).mem (s.setPc (s.pc + 1#16)).pc [v, w] = true := by
            obtain ⟨h1, h2⟩ := holdsAt_cons.mp htl
            exact holdsAt_cons.mpr ⟨h1, holdsAt_cons.mpr ⟨(holdsAt_cons.mp h2).1, rfl⟩⟩
          have hf := State.fetchBytes_of_holdsAt hat
          simp only [List.length_cons, List.length_nil] at hf
          simp only [Row.operandBytes, hf, decode, hr]
          simp [show tl.length + 1 + 1 + 1 - tl.length = 3 by omega, BitVec.add_assoc]

/-- Where the bytes of an instruction stop being readable, its fetch raises that error with `pc` there. -/
theorem State.fetchInstr_error_of_decode {s : State} {bytes : List Byte} {i : Instr} {k : Nat} {e : CoreError}
    (hd : decode bytes = .ok (i, [])) (hk : k < bytes.length) (h : holdsAt s.mem s.pc (bytes.take k) = true)
    (he : s.mem.read (s.pc + BitVec.ofNat 16 k) = .error e) :
    s.fetchInstr = .error (e, s.setPc (s.pc + BitVec.ofNat 16 k)) := by
  cases bytes with
  | nil => simp at hk
  | cons op tl =>
    cases k with
    | zero =>
      have he' : s.mem.read s.pc = .error e := by simpa using he
      simp [State.fetchInstr, State.fetchByte_error he']
    | succ k =>
      rw [List.take_succ_cons] at h
      obtain ⟨hop, htl⟩ := holdsAt_cons.mp h
      simp only [State.fetchInstr, State.fetchByte_ok hop]
      simp only [List.length_cons] at hk
      have hlen : (tl.take k).length = k := by simp; omega
      have hpc : s.pc + BitVec.ofNat 16 (k + 1) = s.pc + 1#16 + BitVec.ofNat 16 k := by
        rw [ofNat_succ_word k, BitVec.add_assoc]
      have hfail : ∀ n, k < n →
          (s.setPc (s.pc + 1#16)).fetchBytes n = .error (e, s.setPc (s.pc + BitVec.ofNat 16 (k + 1))) := by
        intro n hn
        have hb := State.fetchBytes_error (s := s.setPc (s.pc + 1#16)) (vs := tl.take k) (n := n) (e := e) (by omega)
          htl (by rw [hlen]; rw [hpc] at he; exact he)
        rw [hb, hlen, hpc]
        rfl
      simp only [decode] at hd
      cases hr : opcodeRow op with
      | none => simp [hr] at hd
      | some row =>
        simp only [hr] at hd
        have hbound : k < row.operandBytes := by
          cases row with
          | f0 j =>
            simp only [Except.ok.injEq, Prod.mk.injEq] at hd
            simp [hd.2] at hk
          | f1 mk =>
            match tl with
            | [] => simp at hd
            | [_] =>
              simp only [List.length_cons, List.length_nil] at hk
              simp only [Row.operandBytes]
              omega
            | _ :: _ :: _ => simp at hd
          | f2 mk =>
            match tl with
            | [] => simp at hd
            | [_] => simp at hd
            | [_, _] =>
              simp only [List.length_cons, List.length_nil] at hk
              simp only [Row.operandBytes]
              omega
            | _ :: _ :: _ :: _ => simp at hd
        simp only [hfail _ hbound]

/-- A fetched instruction's encoding stands at `pc`, and the fetch moved `pc` alone, past it. -/
theorem State.fetchInstr_ok_frame {s t : State} {i : Instr} (h : s.fetchInstr = .ok (i, t)) :
    holdsAt s.mem s.pc (encode i) = true ∧ t = s.setPc (s.pc + BitVec.ofNat 16 i.length) := by
  unfold State.fetchInstr at h
  cases hr : s.mem.read s.pc with
  | error e => simp [State.fetchByte_error hr] at h
  | ok op =>
    simp only [State.fetchByte_ok hr] at h
    cases hrow : opcodeRow op with
    | none => simp [hrow] at h
    | some row =>
      simp only [hrow] at h
      have henc := opcodeRow_encodes hrow
      cases hb : (s.setPc (s.pc + 1#16)).fetchBytes row.operandBytes with
      | error x => simp [hb] at h
      | ok p =>
        obtain ⟨vs, u⟩ := p
        obtain ⟨hlen, hat, rfl⟩ := State.fetchBytes_frame hb
        simp only [hb] at h
        have hstand : ∀ j : Instr, encode j = op :: vs → holdsAt s.mem s.pc (encode j) = true := fun j hj => by
          rw [hj]
          exact holdsAt_cons.mpr ⟨hr, hat⟩
        cases row with
        | f0 j =>
          match vs, hlen with
          | [], _ =>
            simp only [decode, hrow, Except.ok.injEq, Prod.mk.injEq] at h
            obtain ⟨rfl, rfl⟩ := h
            refine ⟨hstand j henc.1, ?_⟩
            simp [Row.operandBytes, Instr.length, henc.2, Format.operandBytes]
        | f1 mk =>
          match vs, hlen with
          | [v], _ =>
            simp only [decode, hrow, Except.ok.injEq, Prod.mk.injEq] at h
            obtain ⟨rfl, rfl⟩ := h
            refine ⟨hstand _ (henc v).1, ?_⟩
            simp [Row.operandBytes, Instr.length, (henc v).2, Format.operandBytes, BitVec.add_assoc]
        | f2 mk =>
          match vs, hlen with
          | [v, w], _ =>
            simp only [decode, hrow, Except.ok.injEq, Prod.mk.injEq] at h
            obtain ⟨rfl, rfl⟩ := h
            refine ⟨hstand _ (by rw [(henc _).1]; simp), ?_⟩
            simp [Row.operandBytes, Instr.length, (henc _).2, Format.operandBytes, BitVec.add_assoc]

/-- A failed fetch moved `pc` alone, by at most two, and its error is that of the read at `pc` or an opcode byte that
has no row. -/
theorem State.fetchInstr_error_frame {s t : State} {e : CoreError} (h : s.fetchInstr = .error (e, t)) :
    ∃ k, k ≤ 2 ∧ t = s.setPc (s.pc + BitVec.ofNat 16 k) ∧
      (s.mem.read t.pc = .error e ∨ ∃ op, e = .unsupportedOpcode op ∧ opcodeRow op = none) := by
  unfold State.fetchInstr at h
  cases hr : s.mem.read s.pc with
  | error e' =>
    simp only [State.fetchByte_error hr, Except.error.injEq, Prod.mk.injEq] at h
    obtain ⟨rfl, rfl⟩ := h
    exact ⟨0, by omega, by simp, .inl hr⟩
  | ok op =>
    simp only [State.fetchByte_ok hr] at h
    cases hrow : opcodeRow op with
    | none =>
      simp only [hrow, Except.error.injEq, Prod.mk.injEq] at h
      obtain ⟨rfl, rfl⟩ := h
      exact ⟨1, by omega, rfl, .inr ⟨op, rfl, hrow⟩⟩
    | some row =>
      simp only [hrow] at h
      cases hb : (s.setPc (s.pc + 1#16)).fetchBytes row.operandBytes with
      | error x =>
        obtain ⟨e', u⟩ := x
        simp only [hb, Except.error.injEq, Prod.mk.injEq] at h
        obtain ⟨rfl, rfl⟩ := h
        obtain ⟨k, hk, rfl, he⟩ := State.fetchBytes_error_frame hb
        refine ⟨k + 1, ?_, ?_, .inl he⟩
        · cases row <;> simp only [Row.operandBytes] at hk <;> omega
        · rw [State.setPc_pc, State.setPc_setPc, ofNat_succ_word k, BitVec.add_assoc]
      | ok p =>
        obtain ⟨vs, u⟩ := p
        obtain ⟨hlen, -, rfl⟩ := State.fetchBytes_frame hb
        simp only [hb] at h
        exfalso
        cases row with
        | f0 j =>
          match vs, hlen with
          | [], _ => simp [decode, hrow] at h
        | f1 mk =>
          match vs, hlen with
          | [_], _ => simp [decode, hrow] at h
        | f2 mk =>
          match vs, hlen with
          | [_, _], _ => simp [decode, hrow] at h

/-- All a step that answers a next state can have done. -/
theorem step_cases {s t : State} (h : step s = .next t) :
    s.fault = none ∧
      ((∃ i u, s.fetchInstr = .ok (i, u) ∧ exec i u = .next t) ∨
        ∃ e u, s.fetchInstr = .error (e, u) ∧ t = u.latch e) := by
  unfold step at h
  cases hf : s.fault with
  | some e => simp [hf] at h
  | none =>
    simp only [hf] at h
    refine ⟨rfl, ?_⟩
    cases hi : s.fetchInstr with
    | ok p =>
      obtain ⟨i, u⟩ := p
      simp only [hi] at h
      exact .inl ⟨i, u, rfl, h⟩
    | error p =>
      obtain ⟨e, u⟩ := p
      simp only [hi, State.raise, Host.Outcome.next.injEq] at h
      exact .inr ⟨e, u, rfl, h.symm⟩

/-- No instruction stops: a meaning answers a next state, with the latch set where it raised. -/
theorem exec_answers (i : Instr) (s : State) : Answers (fun _ => True) (exec i s) := by
  cases i
  all_goals
    simp only [exec_nop, exec_ldBcN16, exec_ldAtBcA, exec_ldBN8, exec_ldAtA16Sp, exec_ldAAtBc, exec_ldCN8,
      exec_stop, exec_ldDeN16, exec_ldAtDeA, exec_ldDN8, exec_ldAAtDe, exec_ldEN8, exec_ldHlN16,
      exec_ldAtHlIncA, exec_ldHN8, exec_ldAAtHlInc, exec_ldLN8, exec_ldSpN16, exec_ldAtHlDecA, exec_ldAtHlN8,
      exec_ldAAtHlDec, exec_ldAN8, exec_ldBB, exec_ldBC, exec_ldBD, exec_ldBE, exec_ldBH, exec_ldBL,
      exec_ldBAtHl, exec_ldBA, exec_ldCB, exec_ldCC, exec_ldCD, exec_ldCE, exec_ldCH, exec_ldCL, exec_ldCAtHl,
      exec_ldCA, exec_ldDB, exec_ldDC, exec_ldDD, exec_ldDE, exec_ldDH, exec_ldDL, exec_ldDAtHl, exec_ldDA,
      exec_ldEB, exec_ldEC, exec_ldED, exec_ldEE, exec_ldEH, exec_ldEL, exec_ldEAtHl, exec_ldEA, exec_ldHB,
      exec_ldHC, exec_ldHD, exec_ldHE, exec_ldHH, exec_ldHL, exec_ldHAtHl, exec_ldHA, exec_ldLB, exec_ldLC,
      exec_ldLD, exec_ldLE, exec_ldLH, exec_ldLL, exec_ldLAtHl, exec_ldLA, exec_ldAtHlB, exec_ldAtHlC,
      exec_ldAtHlD, exec_ldAtHlE, exec_ldAtHlH, exec_ldAtHlL, exec_ldAtHlA, exec_ldAB, exec_ldAC, exec_ldAD,
      exec_ldAE, exec_ldAH, exec_ldAL, exec_ldAAtHl, exec_ldAA, exec_popBc, exec_pushBc, exec_popDe,
      exec_pushDe, exec_ldhAtA8A, exec_popHl, exec_ldhAtCA, exec_pushHl, exec_ldAtA16A, exec_ldhAAtA8,
      exec_popAf, exec_ldhAAtC, exec_pushAf, exec_ldSpHl, exec_ldAAtA16]
  all_goals first
    | with_reducible exact answers_next trivial
    | with_reducible exact answers_move trivial
    | with_reducible exact answers_load (fun _ _ => trivial) (fun _ => trivial)
    | with_reducible exact answers_store (fun _ _ => trivial) (fun _ _ _ => trivial)
    | with_reducible exact answers_readThen (fun _ _ => answers_next trivial) (fun _ => trivial)
    | with_reducible exact answers_writeThen (fun _ _ => answers_next trivial) (fun _ _ _ => trivial)
    | with_reducible exact answers_storeWord (fun _ _ _ _ => trivial) (fun _ _ _ => trivial) (fun _ _ _ _ _ => trivial)
    | with_reducible exact answers_push (fun _ _ _ _ => trivial) (fun _ _ _ => trivial) (fun _ _ _ _ _ => trivial)
    | with_reducible exact answers_pop (fun _ _ _ _ => trivial) (fun _ => trivial) (fun _ _ _ => trivial)

end Sys2Proof.Machine
end

