-- ==== Sys2Proof/Tests/Slice0.lean ====
section
/-!
SUPPORT. The model's own tests. Every expected value is taken from the spec: encodings from the bit patterns of
spec/30_encoding.md R74, R75, R79, one-step results from spec/95_test_vectors.md (its number in the docstring).
Then one witness for each statement that has hypotheses: a state and operands that meet them all.
-/

namespace Sys2Proof.Tests

open Sys2Proof.Machine Sys2Proof.Claims

/-! ### Decoding, from the bit patterns of R79 with the operand codes of R74 and R75 -/

/-- What the decoder reads. -/
def decoded (bytes : List Byte) : Option (Instr × List Byte) := (decode bytes).toOption

/-- `01 ddd sss` and `01 ddd 110`, destination B (R79). -/
theorem test_decode_move_to_b :
    decoded [0b01000000#8] = some (.ldBB, []) ∧
    decoded [0b01000001#8] = some (.ldBC, []) ∧
    decoded [0b01000010#8] = some (.ldBD, []) ∧
    decoded [0b01000011#8] = some (.ldBE, []) ∧
    decoded [0b01000100#8] = some (.ldBH, []) ∧
    decoded [0b01000101#8] = some (.ldBL, []) ∧
    decoded [0b01000111#8] = some (.ldBA, []) ∧
    decoded [0b01000110#8] = some (.ldBAtHl, []) := by decide

/-- `01 ddd sss` and `01 ddd 110`, destination C (R79). -/
theorem test_decode_move_to_c :
    decoded [0b01001000#8] = some (.ldCB, []) ∧
    decoded [0b01001001#8] = some (.ldCC, []) ∧
    decoded [0b01001010#8] = some (.ldCD, []) ∧
    decoded [0b01001011#8] = some (.ldCE, []) ∧
    decoded [0b01001100#8] = some (.ldCH, []) ∧
    decoded [0b01001101#8] = some (.ldCL, []) ∧
    decoded [0b01001111#8] = some (.ldCA, []) ∧
    decoded [0b01001110#8] = some (.ldCAtHl, []) := by decide

/-- `01 ddd sss` and `01 ddd 110`, destination D (R79). -/
theorem test_decode_move_to_d :
    decoded [0b01010000#8] = some (.ldDB, []) ∧
    decoded [0b01010001#8] = some (.ldDC, []) ∧
    decoded [0b01010010#8] = some (.ldDD, []) ∧
    decoded [0b01010011#8] = some (.ldDE, []) ∧
    decoded [0b01010100#8] = some (.ldDH, []) ∧
    decoded [0b01010101#8] = some (.ldDL, []) ∧
    decoded [0b01010111#8] = some (.ldDA, []) ∧
    decoded [0b01010110#8] = some (.ldDAtHl, []) := by decide

/-- `01 ddd sss` and `01 ddd 110`, destination E (R79). -/
theorem test_decode_move_to_e :
    decoded [0b01011000#8] = some (.ldEB, []) ∧
    decoded [0b01011001#8] = some (.ldEC, []) ∧
    decoded [0b01011010#8] = some (.ldED, []) ∧
    decoded [0b01011011#8] = some (.ldEE, []) ∧
    decoded [0b01011100#8] = some (.ldEH, []) ∧
    decoded [0b01011101#8] = some (.ldEL, []) ∧
    decoded [0b01011111#8] = some (.ldEA, []) ∧
    decoded [0b01011110#8] = some (.ldEAtHl, []) := by decide

/-- `01 ddd sss` and `01 ddd 110`, destination H (R79). -/
theorem test_decode_move_to_h :
    decoded [0b01100000#8] = some (.ldHB, []) ∧
    decoded [0b01100001#8] = some (.ldHC, []) ∧
    decoded [0b01100010#8] = some (.ldHD, []) ∧
    decoded [0b01100011#8] = some (.ldHE, []) ∧
    decoded [0b01100100#8] = some (.ldHH, []) ∧
    decoded [0b01100101#8] = some (.ldHL, []) ∧
    decoded [0b01100111#8] = some (.ldHA, []) ∧
    decoded [0b01100110#8] = some (.ldHAtHl, []) := by decide

/-- `01 ddd sss` and `01 ddd 110`, destination L (R79). -/
theorem test_decode_move_to_l :
    decoded [0b01101000#8] = some (.ldLB, []) ∧
    decoded [0b01101001#8] = some (.ldLC, []) ∧
    decoded [0b01101010#8] = some (.ldLD, []) ∧
    decoded [0b01101011#8] = some (.ldLE, []) ∧
    decoded [0b01101100#8] = some (.ldLH, []) ∧
    decoded [0b01101101#8] = some (.ldLL, []) ∧
    decoded [0b01101111#8] = some (.ldLA, []) ∧
    decoded [0b01101110#8] = some (.ldLAtHl, []) := by decide

/-- `01 ddd sss` and `01 ddd 110`, destination A (R79). -/
theorem test_decode_move_to_a :
    decoded [0b01111000#8] = some (.ldAB, []) ∧
    decoded [0b01111001#8] = some (.ldAC, []) ∧
    decoded [0b01111010#8] = some (.ldAD, []) ∧
    decoded [0b01111011#8] = some (.ldAE, []) ∧
    decoded [0b01111100#8] = some (.ldAH, []) ∧
    decoded [0b01111101#8] = some (.ldAL, []) ∧
    decoded [0b01111111#8] = some (.ldAA, []) ∧
    decoded [0b01111110#8] = some (.ldAAtHl, []) := by decide

/-- `01 110 sss` (R79); 01 110 110 has no row (R77). -/
theorem test_decode_store_at_hl :
    decoded [0b01110000#8] = some (.ldAtHlB, []) ∧
    decoded [0b01110001#8] = some (.ldAtHlC, []) ∧
    decoded [0b01110010#8] = some (.ldAtHlD, []) ∧
    decoded [0b01110011#8] = some (.ldAtHlE, []) ∧
    decoded [0b01110100#8] = some (.ldAtHlH, []) ∧
    decoded [0b01110101#8] = some (.ldAtHlL, []) ∧
    decoded [0b01110111#8] = some (.ldAtHlA, []) := by decide

/-- `00 ddd 110` + n8 (R79). -/
theorem test_decode_immediate_byte :
    decoded [0b00000110#8, 0xA5#8] = some (.ldBN8 0xA5#8, []) ∧
    decoded [0b00001110#8, 0xA5#8] = some (.ldCN8 0xA5#8, []) ∧
    decoded [0b00010110#8, 0xA5#8] = some (.ldDN8 0xA5#8, []) ∧
    decoded [0b00011110#8, 0xA5#8] = some (.ldEN8 0xA5#8, []) ∧
    decoded [0b00100110#8, 0xA5#8] = some (.ldHN8 0xA5#8, []) ∧
    decoded [0b00101110#8, 0xA5#8] = some (.ldLN8 0xA5#8, []) ∧
    decoded [0b00111110#8, 0xA5#8] = some (.ldAN8 0xA5#8, []) ∧
    decoded [0b00110110#8, 0xA5#8] = some (.ldAtHlN8 0xA5#8, []) := by decide

/-- `00 dd 0001` + lo + hi and the other three-byte forms: the low byte comes first (R73, R79). -/
theorem test_decode_immediate_word :
    decoded [0b00000001#8, 0x34#8, 0x12#8] = some (.ldBcN16 0x1234#16, []) ∧
    decoded [0b00010001#8, 0x34#8, 0x12#8] = some (.ldDeN16 0x1234#16, []) ∧
    decoded [0b00100001#8, 0x34#8, 0x12#8] = some (.ldHlN16 0x1234#16, []) ∧
    decoded [0b00110001#8, 0x34#8, 0x12#8] = some (.ldSpN16 0x1234#16, []) ∧
    decoded [0b00001000#8, 0x34#8, 0x12#8] = some (.ldAtA16Sp 0x1234#16, []) ∧
    decoded [0b11101010#8, 0x34#8, 0x12#8] = some (.ldAtA16A 0x1234#16, []) ∧
    decoded [0b11111010#8, 0x34#8, 0x12#8] = some (.ldAAtA16 0x1234#16, []) := by decide

/-- The accumulator's register-indirect forms (R79). -/
theorem test_decode_indirect_accumulator :
    decoded [0b00000010#8] = some (.ldAtBcA, []) ∧
    decoded [0b00001010#8] = some (.ldAAtBc, []) ∧
    decoded [0b00010010#8] = some (.ldAtDeA, []) ∧
    decoded [0b00011010#8] = some (.ldAAtDe, []) ∧
    decoded [0b00100010#8] = some (.ldAtHlIncA, []) ∧
    decoded [0b00101010#8] = some (.ldAAtHlInc, []) ∧
    decoded [0b00110010#8] = some (.ldAtHlDecA, []) ∧
    decoded [0b00111010#8] = some (.ldAAtHlDec, []) := by decide

/-- The port-style forms (R79). -/
theorem test_decode_port :
    decoded [0b11100000#8, 0x81#8] = some (.ldhAtA8A 0x81#8, []) ∧
    decoded [0b11110000#8, 0x81#8] = some (.ldhAAtA8 0x81#8, []) ∧
    decoded [0b11100010#8] = some (.ldhAtCA, []) ∧
    decoded [0b11110010#8] = some (.ldhAAtC, []) := by decide

/-- `11 qq 0101` and `11 qq 0001` (R79), and LD SP,HL. -/
theorem test_decode_stack :
    decoded [0b11000101#8] = some (.pushBc, []) ∧
    decoded [0b11010101#8] = some (.pushDe, []) ∧
    decoded [0b11100101#8] = some (.pushHl, []) ∧
    decoded [0b11110101#8] = some (.pushAf, []) ∧
    decoded [0b11000001#8] = some (.popBc, []) ∧
    decoded [0b11010001#8] = some (.popDe, []) ∧
    decoded [0b11100001#8] = some (.popHl, []) ∧
    decoded [0b11110001#8] = some (.popAf, []) ∧
    decoded [0b11111001#8] = some (.ldSpHl, []) := by decide

/-- NOP and STOP; STOP is one byte long (R79, V161). -/
theorem test_decode_misc :
    decoded [0b00000000#8] = some (.nop, []) ∧ decoded [0b00010000#8, 0x00#8] = some (.stop, [0x00#8]) := by decide

/-- The unsupported opcodes of T16 and V50 to V54, V163, and an instruction whose bytes end too soon (R77, R78). -/
theorem test_decode_refuses :
    decode [0x76#8] = .error (.unsupportedOpcode 0x76#8) ∧ decode [0xD3#8] = .error (.unsupportedOpcode 0xD3#8) ∧
    decode [0xCB#8, 0x00#8] = .error (.unsupportedOpcode 0xCB#8) ∧ decode [0x18#8] = .error (.unsupportedOpcode 0x18#8) ∧
    decode [0xF8#8] = .error (.unsupportedOpcode 0xF8#8) ∧ decode [0x21#8, 0x34#8] = .error .truncated ∧
    decode [0x06#8] = .error .truncated ∧ decode [] = .error .truncated :=
  ⟨rfl, rfl, rfl, rfl, rfl, rfl, rfl, rfl⟩

/-- Words as the opcode table numbers them: bit 0 is the least significant bit of the first byte. -/
theorem test_decodeTableWord :
    decodeTableWord 8 0x41 = some .ldBC ∧ decodeTableWord 16 0x423E = some (.ldAN8 0x42#8) ∧
    decodeTableWord 24 0x123421 = some (.ldHlN16 0x1234#16) ∧ decodeTableWord 8 0x21 = some (.ldHlN16 0#16) ∧
    decodeTableWord 8 0x76 = none := by decide

/-! ### Well-formedness: each ill-formed pair of a format and an immediate is refused (R70) -/

theorem test_wf_refuses_f0_with_byte : Format.admits .f0 (.n8 0x00#8) = false := by decide

theorem test_wf_refuses_f0_with_word : Format.admits .f0 (.n16 0x0000#16) = false := by decide

theorem test_wf_refuses_f1_without_immediate : Format.admits .f1 .none = false := by decide

theorem test_wf_refuses_f1_with_word : Format.admits .f1 (.n16 0x0000#16) = false := by decide

theorem test_wf_refuses_f2_without_immediate : Format.admits .f2 .none = false := by decide

theorem test_wf_refuses_f2_with_byte : Format.admits .f2 (.n8 0x00#8) = false := by decide

/-! ### One step, from the vectors of spec/95_test_vectors.md -/

/-- The base state of the vectors (section 2.1): reset, a cartridge of 0x8000 zero bytes, `pc` at 0xD000. -/
def base : State := { State.reset with pc := 0xD000#16, mem := { State.reset.mem with cartLen := 0x8000 } }

/-- The instruction bytes at 0xD000, in WRAM. -/
def code (bytes : List Byte) (s : State) : State :=
  { s with mem := { s.mem with wram := s.mem.wram ++ Store.ofBytesFrom 0x1000 bytes } }

/-- A byte written before the step. -/
def poke (addr : Word) (v : Byte) (s : State) : State :=
  match s.mem.write addr v with
  | .ok m => s.setMem m
  | .error _ => s

/-- The byte an address reads. -/
def byteAt (s : State) (addr : Word) : Option Byte := (s.mem.read addr).toOption

/-- What one step returns, and what is looked at in the state it leaves. -/
def after {α : Type} (s : State) (look : State → α) : Option (StepReturn × α) :=
  match step s, stepReturn s with
  | .next t, some r => some (r, look t)
  | _, _ => none

/-- V50, R77. -/
theorem test_v50 :
    after (code [0x76#8] base) (fun t => t.pc) =
      some (.err (.unsupportedOpcode 0x76#8), 0xD001#16) := by decide

/-- V51, T16, R77. -/
theorem test_v51 :
    after (code [0xCB#8, 0x00#8] base) (fun t => t.pc) =
      some (.err (.unsupportedOpcode 0xCB#8), 0xD001#16) := by decide

/-- V101, R100. -/
theorem test_v101 :
    after (code [0x7D#8] ((base.setReg .l 0xFF#8).setReg .a 0x00#8)) (fun t => (t.a, t.l, t.pc)) =
      some (.ok 1, 0xFF#8, 0xFF#8, 0xD001#16) := by decide

/-- V102, R100: no flag changes. -/
theorem test_v102 :
    after (code [0x78#8] (base.setReg .b 0x00#8)) (fun t => (t.a, t.f)) =
      some (.ok 1, 0x00#8, 0xB0#8) := by decide

/-- V103, R101. -/
theorem test_v103 :
    after (code [0x0E#8, 0xFF#8] base) (fun t => (t.c, t.pc)) =
      some (.ok 2, 0xFF#8, 0xD002#16) := by decide

/-- V104, R102. -/
theorem test_v104 :
    after (code [0x36#8, 0xA5#8] (base.setPair .hl 0xFFFE#16)) (fun t => (byteAt t 0xFFFE#16, t.pc)) =
      some (.ok 3, some 0xA5#8, 0xD002#16) := by decide

/-- V105, R102: the immediate was fetched. -/
theorem test_v105 :
    after (code [0x36#8, 0xA5#8] (base.setPair .hl 0xFFFF#16)) (fun t => t.pc) =
      some (.err (.invalidAddress 0xFFFF#16 .write), 0xD002#16) := by decide

/-- V106, R103: a destination that is half of the address. -/
theorem test_v106 :
    after (code [0x66#8] (poke 0xC105#16 0x99#8 (base.setPair .hl 0xC105#16))) (fun t => (t.h, t.l)) =
      some (.ok 2, 0x99#8, 0x05#8) := by decide

/-- V107, R103. -/
theorem test_v107 :
    after (code [0x6E#8] (poke 0xC105#16 0x99#8 (base.setPair .hl 0xC105#16))) (fun t => (t.h, t.l)) =
      some (.ok 2, 0xC1#8, 0x99#8) := by decide

/-- V108, R103: an echo read. -/
theorem test_v108 :
    after (code [0x7E#8] (poke 0xC123#16 0x42#8 (base.setPair .hl 0xE123#16))) (fun t => t.a) =
      some (.ok 2, 0x42#8) := by decide

/-- V110, R104. -/
theorem test_v110 :
    after (code [0x74#8] (base.setPair .hl 0xC105#16)) (fun t => byteAt t 0xC105#16) =
      some (.ok 2, some 0xC1#8) := by decide

/-- V111, R104: an echo write. -/
theorem test_v111 :
    after (code [0x77#8] (poke 0xC123#16 0x42#8 (base.setPair .hl 0xE123#16))) (fun t => (byteAt t 0xC123#16, t.pc)) =
      some (.err (.prohibitedAccess 0xE123#16), some 0x42#8, 0xD001#16) := by decide

/-- V112, R105. -/
theorem test_v112 :
    after (code [0x0A#8] (poke 0x8000#16 0x3C#8 (base.setPair .bc 0x8000#16))) (fun t => t.a) =
      some (.ok 2, 0x3C#8) := by decide

/-- V113, R105: past CART_LEN. -/
theorem test_v113 :
    after (code [0x0A#8] (base.setPair .bc 0xA000#16)) (fun t => t.a) =
      some (.err (.invalidAddress 0xA000#16 .read), 0x01#8) := by decide

/-- V114, R106. -/
theorem test_v114 :
    after (code [0x1A#8] (poke 0xFF80#16 0x77#8 (base.setPair .de 0xFF80#16))) (fun t => t.a) =
      some (.ok 2, 0x77#8) := by decide

/-- V115, R107. -/
theorem test_v115 :
    after (code [0x02#8] (base.setPair .bc 0xC000#16)) (fun t => byteAt t 0xC000#16) =
      some (.ok 2, some 0x01#8) := by decide

/-- V116, R108: the last OAM byte. -/
theorem test_v116 :
    after (code [0x12#8] ((base.setPair .de 0xFE9F#16).setReg .a 0x66#8)) (fun t => byteAt t 0xFE9F#16) =
      some (.ok 2, some 0x66#8) := by decide

/-- V117, R108: nothing stored. -/
theorem test_v117 :
    after (code [0x12#8] ((base.setPair .de 0xFDFF#16).setReg .a 0x66#8)) (fun t => byteAt t 0xDDFF#16) =
      some (.err (.prohibitedAccess 0xFDFF#16), some 0x00#8) := by decide

/-- V118, R109. -/
theorem test_v118 :
    after (code [0xFA#8, 0xFE#8, 0xFF#8] (poke 0xFFFE#16 0x81#8 base)) (fun t => (t.a, t.pc)) =
      some (.ok 4, 0x81#8, 0xD003#16) := by decide

/-- V119, R109. -/
theorem test_v119 :
    after (code [0xFA#8, 0x7F#8, 0xFF#8] base) (fun t => t.pc) =
      some (.err (.invalidAddress 0xFF7F#16 .read), 0xD003#16) := by decide

/-- V120, R110: a ROM store. -/
theorem test_v120 :
    after (code [0xEA#8, 0x00#8, 0x00#8] (base.setReg .a 0x12#8)) (fun t => byteAt t 0x0000#16) =
      some (.ok 4, some 0x12#8) := by decide

/-- V121, R111. -/
theorem test_v121 :
    after (code [0xF2#8] (poke 0xFFFE#16 0x3D#8 (base.setReg .c 0xFE#8))) (fun t => t.a) =
      some (.ok 2, 0x3D#8) := by decide

/-- V122, R111. -/
theorem test_v122 :
    after (code [0xF2#8] (base.setReg .c 0x7F#8)) (fun t => t.pc) =
      some (.err (.invalidAddress 0xFF7F#16 .read), 0xD001#16) := by decide

/-- V123, R112. -/
theorem test_v123 :
    after (code [0xE2#8] (base.setReg .c 0xFF#8)) (fun t => t.pc) =
      some (.err (.invalidAddress 0xFFFF#16 .write), 0xD001#16) := by decide

/-- V124, R112. -/
theorem test_v124 :
    after (code [0xE2#8] ((base.setReg .c 0x80#8).setReg .a 0x9A#8)) (fun t => byteAt t 0xFF80#16) =
      some (.ok 2, some 0x9A#8) := by decide

/-- V125, R113. -/
theorem test_v125 :
    after (code [0xF0#8, 0x00#8] base) (fun t => t.pc) =
      some (.err (.invalidAddress 0xFF00#16 .read), 0xD002#16) := by decide

/-- V126, R113. -/
theorem test_v126 :
    after (code [0xF0#8, 0xFE#8] (poke 0xFFFE#16 0x44#8 base)) (fun t => t.a) =
      some (.ok 3, 0x44#8) := by decide

/-- V127, R114. -/
theorem test_v127 :
    after (code [0xE0#8, 0x80#8] (base.setReg .a 0x9A#8)) (fun t => (byteAt t 0xFF80#16, t.pc)) =
      some (.ok 3, some 0x9A#8, 0xD002#16) := by decide

/-- V129, R115: no increment after a failed write. -/
theorem test_v129 :
    after (code [0x22#8] (base.setPair .hl 0xFFFF#16)) (fun t => t.pair .hl) =
      some (.err (.invalidAddress 0xFFFF#16 .write), 0xFFFF#16) := by decide

/-- V134, R116: carry into h. -/
theorem test_v134 :
    after (code [0x2A#8] (poke 0xC0FF#16 0x07#8 (base.setPair .hl 0xC0FF#16))) (fun t => (t.a, t.pair .hl)) =
      some (.ok 2, 0x07#8, 0xC100#16) := by decide

/-- V131, R117: the decrement wraps. -/
theorem test_v131 :
    after (code [0x32#8] ((base.setPair .hl 0x0000#16).setReg .a 0x4B#8)) (fun t => (byteAt t 0x0000#16, t.pair .hl)) =
      some (.ok 2, some 0x4B#8, 0xFFFF#16) := by decide

/-- V133, R118. -/
theorem test_v133 :
    after (code [0x3A#8] (poke 0xC000#16 0x21#8 (base.setPair .hl 0xC000#16))) (fun t => (t.a, t.pair .hl)) =
      some (.ok 2, 0x21#8, 0xBFFF#16) := by decide

/-- V141, R140: the low byte first. -/
theorem test_v141 :
    after (code [0x11#8, 0x34#8, 0x12#8] base) (fun t => (t.d, t.e)) =
      some (.ok 3, 0x12#8, 0x34#8) := by decide

/-- V143, R140. -/
theorem test_v143 :
    after (code [0x31#8, 0x00#8, 0x00#8] base) (fun t => t.sp) =
      some (.ok 3, 0x0000#16) := by decide

/-- V144, R141. -/
theorem test_v144 :
    after (code [0x08#8, 0x00#8, 0xC0#8] (base.setSp 0xABCD#16)) (fun t => (byteAt t 0xC000#16, byteAt t 0xC001#16)) =
      some (.ok 5, some 0xCD#8, some 0xAB#8) := by decide

/-- V145, R141, R174: the first byte remains. -/
theorem test_v145 :
    after (code [0x08#8, 0xFF#8, 0xDF#8] (base.setSp 0x1234#16)) (fun t => (byteAt t 0xDFFF#16, t.pc)) =
      some (.err (.prohibitedAccess 0xE000#16), some 0x34#8, 0xD003#16) := by decide

/-- V148, R142. -/
theorem test_v148 :
    after (code [0xF9#8] (base.setPair .hl 0xC000#16)) (fun t => (t.sp, t.pair .hl)) =
      some (.ok 2, 0xC000#16, 0xC000#16) := by decide

/-- V150, R150. -/
theorem test_v150 :
    after (code [0xF5#8] base) (fun t => (t.sp, byteAt t 0xFFFD#16, byteAt t 0xFFFC#16)) =
      some (.ok 4, 0xFFFC#16, some 0x01#8, some 0xB0#8) := by decide

/-- V152, R150: the first byte remains. -/
theorem test_v152 :
    after (code [0xD5#8] ((base.setSp 0x0001#16).setPair .de 0x1122#16)) (fun t => (byteAt t 0x0000#16, t.sp)) =
      some (.err (.invalidAddress 0xFFFF#16 .write), some 0x11#8, 0xFFFF#16) := by decide

/-- V153, R150. -/
theorem test_v153 :
    after (code [0xE5#8] ((base.setSp 0xE002#16).setPair .hl 0x3344#16)) (fun t => t.sp) =
      some (.err (.prohibitedAccess 0xE001#16), 0xE001#16) := by decide

/-- V155, R151. -/
theorem test_v155 :
    after (code [0xC1#8] ((poke 0xFFFE#16 0x77#8 (base.setSp 0xFFFE#16)).setPair .bc 0x0909#16)) (fun t => (t.sp, t.pair .bc)) =
      some (.err (.invalidAddress 0xFFFF#16 .read), 0xFFFF#16, 0x0909#16) := by decide

/-- V156, R151. -/
theorem test_v156 :
    after (code [0xD1#8] (poke 0xC011#16 0x12#8 (poke 0xC010#16 0x34#8 (base.setSp 0xC010#16)))) (fun t => (t.pair .de, t.sp)) =
      some (.ok 3, 0x1234#16, 0xC012#16) := by decide

/-- V157, R152: the low nibble is masked. -/
theorem test_v157 :
    after (code [0xF1#8] (poke 0xC011#16 0xFF#8 (poke 0xC010#16 0x0F#8 (base.setSp 0xC010#16)))) (fun t => (t.a, t.f, t.sp)) =
      some (.ok 3, 0xFF#8, 0x00#8, 0xC012#16) := by decide

/-- V160, R160: `pc` alone changes. -/
theorem test_v160 :
    after (code [0x00#8] base) (fun t => t) =
      some (.ok 1, (code [0x00#8] base).setPc 0xD001#16) := by decide

/-- V161, R161: the byte after STOP is not consumed. -/
theorem test_v161 :
    after (code [0x10#8, 0x00#8] base) (fun t => t.pc) =
      some (.ok 1, 0xD001#16) := by decide

/-- T15, R101: `LD A,$42` at reset's `pc`, through the host's placing of a word. -/
theorem test_t15 :
    after (State.reset.withFetchWord 16 0x423E) (fun t => (t.a, t.pc)) = some (.ok 2, 0x42#8, 0x0102#16) := by decide

/-- V55: the failed fetch does not advance `pc`. -/
theorem test_v55 :
    after (base.setPc 0xFEA0#16) (fun t => t.pc) = some (.err (.invalidAddress 0xFEA0#16 .read), 0xFEA0#16) := by decide

/-- V57, R192: no cartridge. -/
theorem test_v57 :
    after State.reset (fun t => t.pc) = some (.err (.invalidAddress 0x0100#16 .read), 0x0100#16) := by decide

/-- V58: the operand fetch fails. -/
theorem test_v58 :
    after (poke 0xFFFE#16 0x21#8 (base.setPc 0xFFFE#16)) (fun t => (t.pc, t.pair .hl)) =
      some (.err (.invalidAddress 0xFFFF#16 .read), 0xFFFF#16, 0x014D#16) := by decide

/-- V59, R173: a faulted core. -/
theorem test_v59 :
    stepReturn (code [0x00#8] (base.latch (.unsupportedOpcode 0x76#8))) = some (.err (.unsupportedOpcode 0x76#8)) := by
  decide

/-- T13: a byte written in WRAM is read there and through the echo, and not in another region. -/
theorem test_t13 :
    [0xC010#16, 0xE010#16, 0x0010#16, 0x8010#16, 0xFE10#16, 0xFF90#16].map (byteAt (poke 0xC010#16 0x5A#8 base)) =
      [some 0x5A#8, some 0x5A#8, some 0#8, some 0#8, some 0#8, some 0#8] := by decide

/-- The memory of a cartridge whose bytes from 0x134 are given, 0x150 bytes long. -/
def titled (bytes : List Byte) : Memory :=
  { State.reset.mem with cart := Store.ofBytesFrom 0x134 bytes, cartLen := 0x150 }

/-- T17, R63: the title "TETRIS", and a window with no zero byte. -/
theorem test_t17 :
    (titled [0x54#8, 0x45#8, 0x54#8, 0x52#8, 0x49#8, 0x53#8]).title =
        some [0x54#8, 0x45#8, 0x54#8, 0x52#8, 0x49#8, 0x53#8] ∧
      ((titled (List.replicate 20 0x41#8)).title.map List.length) = some 16 := by decide
/-! ### Witnesses: the hypotheses of each statement are met, each clause at a boundary -/

theorem read_ok {m : Memory} {addr : Word} {v : Byte} (h : (m.read addr).toOption = some v) : m.read addr = .ok v := by
  cases hr : m.read addr with
  | ok w => rw [hr] at h; exact congrArg Except.ok (Option.some.inj h)
  | error e => rw [hr] at h; cases h

/-- The error of an access, if it fails. -/
def errorOf {α : Type} : Except CoreError α → Option CoreError
  | .ok _ => none
  | .error e => some e

theorem is_error {α : Type} {r : Except CoreError α} {e : CoreError} (h : errorOf r = some e) : r = .error e := by
  cases r with
  | ok w => cases h
  | error f => exact congrArg Except.error (Option.some.inj h)

theorem is_ok {α : Type} {r : Except CoreError α} (h : errorOf r = none) : ∃ v, r = .ok v := by
  cases r with
  | ok w => exact ⟨w, rfl⟩
  | error f => cases h

/-- Some state can read the address and some state cannot: both clauses of `LoadsFrom`. -/
def LoadsSomewhere (addr : State → Word) : Prop :=
  (∃ (s : State) (v : Byte), s.mem.read (addr s) = .ok v) ∧ ∃ (s : State) (e : CoreError), s.mem.read (addr s) = .error e

/-- Some state can write at the address and some state cannot: both clauses of `StoresTo`. -/
def StoresSomewhere (addr : State → Word) (value : State → Byte) : Prop :=
  (∃ (s : State) (m : Memory), s.mem.write (addr s) (value s) = .ok m) ∧
    ∃ (s : State) (e : CoreError), s.mem.write (addr s) (value s) = .error e

/-- Both clauses of `RunsFrom` are met: an unfaulted core with the bytes at `pc`, and for each byte one whose fetch of
that byte fails after those before it. -/
def RunsSomewhere (bytes : List Byte) : Prop :=
  (∃ s : State, s.fault = none ∧ holdsAt s.mem s.pc bytes = true) ∧
    ∀ k, k < bytes.length → ∃ (s : State) (e : CoreError), s.fault = none ∧
      holdsAt s.mem s.pc (bytes.take k) = true ∧ s.mem.read (s.pc + BitVec.ofNat 16 k) = .error e

/-- Bytes from the start of WRAM, and `pc` there. -/
def atWram (bytes : List Byte) : State :=
  { State.reset with pc := 0xC000#16, mem := { State.reset.mem with wram := Store.ofBytesFrom 0 bytes } }

/-- Bytes up to the end of HRAM, and `pc` at the first of them: the fetch after them is at 0xFFFF. -/
def atHramEnd (bytes : List Byte) : State :=
  { State.reset with
    pc := 0xFFFF#16 - BitVec.ofNat 16 bytes.length
    mem := { State.reset.mem with hram := Store.ofBytesFrom (0x7F - bytes.length) bytes } }

theorem atWram_read {bytes : List Byte} {addr : Word} (k : Nat) (h : route .read addr = .cell .wram k)
    (hk : k < 0x2000) : (atWram bytes).mem.read addr = .ok (bytes.getD k unlistedByte) := by
  rw [Memory.read_of_route h hk, ← Store.get_ofBytesFrom bytes 0 k, Nat.zero_add]
  rfl

theorem atHramEnd_read {bytes : List Byte} {addr : Word} (k n : Nat) (h : route .read addr = .cell .hram n)
    (hn : n < 0x7F) (hk : 0x7F - bytes.length + k = n) :
    (atHramEnd bytes).mem.read addr = .ok (bytes.getD k unlistedByte) := by
  subst hk
  rw [Memory.read_of_route h hn, ← Store.get_ofBytesFrom bytes (0x7F - bytes.length) k]
  rfl

theorem atHramEnd_fails (bytes : List Byte) :
    (atHramEnd bytes).mem.read ((atHramEnd bytes).pc + BitVec.ofNat 16 bytes.length) =
      .error (.invalidAddress 0xFFFF#16 .read) := by
  have hpc : (atHramEnd bytes).pc + BitVec.ofNat 16 bytes.length = 0xFFFF#16 := BitVec.sub_add_cancel _ _
  rw [hpc]
  exact Memory.read_of_unmapped (by decide)

theorem runs_one (x : Byte) : RunsSomewhere [x] := by
  refine ⟨⟨atWram [x], rfl, holdsAt_cons.mpr ⟨atWram_read 0 (by decide : route .read 0xC000#16 = .cell .wram 0) (by decide),
    rfl⟩⟩, fun k hk => ?_⟩
  match k, hk with
  | 0, _ =>
    exact ⟨atHramEnd [], _, rfl, rfl, atHramEnd_fails []⟩

theorem runs_two (x y : Byte) : RunsSomewhere [x, y] := by
  refine ⟨⟨atWram [x, y], rfl, holdsAt_cons.mpr ⟨atWram_read 0 (by decide : route .read 0xC000#16 = .cell .wram 0) (by decide),
    holdsAt_cons.mpr ⟨atWram_read 1 (by decide : route .read (0xC000#16 + 1#16) = .cell .wram 1) (by decide),
    rfl⟩⟩⟩, fun k hk => ?_⟩
  match k, hk with
  | 0, _ =>
    exact ⟨atHramEnd [], _, rfl, rfl, atHramEnd_fails []⟩
  | 1, _ =>
    exact ⟨atHramEnd [x], _, rfl, holdsAt_cons.mpr ⟨atHramEnd_read 0 0x7E (by decide : route .read (0xFFFF#16 - 1#16) = .cell .hram 0x7E) (by decide) rfl, rfl⟩,
      atHramEnd_fails [x]⟩

theorem runs_three (x y z : Byte) : RunsSomewhere [x, y, z] := by
  refine ⟨⟨atWram [x, y, z], rfl, holdsAt_cons.mpr ⟨atWram_read 0 (by decide : route .read 0xC000#16 = .cell .wram 0) (by decide),
    holdsAt_cons.mpr ⟨atWram_read 1 (by decide : route .read (0xC000#16 + 1#16) = .cell .wram 1) (by decide),
    holdsAt_cons.mpr ⟨atWram_read 2 (by decide : route .read (0xC000#16 + 1#16 + 1#16) = .cell .wram 2) (by decide),
    rfl⟩⟩⟩⟩, fun k hk => ?_⟩
  match k, hk with
  | 0, _ =>
    exact ⟨atHramEnd [], _, rfl, rfl, atHramEnd_fails []⟩
  | 1, _ =>
    exact ⟨atHramEnd [x], _, rfl, holdsAt_cons.mpr ⟨atHramEnd_read 0 0x7E (by decide : route .read (0xFFFF#16 - 1#16) = .cell .hram 0x7E) (by decide) rfl, rfl⟩,
      atHramEnd_fails [x]⟩
  | 2, _ =>
    exact ⟨atHramEnd [x, y], _, rfl, holdsAt_cons.mpr ⟨atHramEnd_read 0 0x7D (by decide : route .read (0xFFFF#16 - 2#16) = .cell .hram 0x7D) (by decide) rfl,
      holdsAt_cons.mpr ⟨atHramEnd_read 1 0x7E (by decide : route .read (0xFFFF#16 - 2#16 + 1#16) = .cell .hram 0x7E) (by decide) rfl, rfl⟩⟩, atHramEnd_fails [x, y]⟩

/-- A load through a pair: HRAM's last byte is readable, 0xFFFF is not. -/
theorem loads_pair (p : Pair) (hp : p ≠ .af) : LoadsSomewhere (fun s => s.pair p) := by
  have hpair : ∀ v : Word, (base.setPair p v).pair p = v := fun v => by
    cases p
    · exact cat16_hi8_lo8 v
    · exact cat16_hi8_lo8 v
    · exact cat16_hi8_lo8 v
    · exact absurd rfl hp
  refine ⟨⟨base.setPair p 0xFFFE#16, 0#8, ?_⟩, ⟨base.setPair p 0xFFFF#16, .invalidAddress 0xFFFF#16 .read, ?_⟩⟩
  · simp only [hpair, State.setPair_mem]
    exact read_ok (by decide)
  · simp only [hpair, State.setPair_mem]
    exact is_error (by decide)

/-- A store through a pair: the last WRAM byte can be written, the echo's first cannot. -/
theorem stores_pair (p : Pair) (hp : p ≠ .af) (value : State → Byte) : StoresSomewhere (fun s => s.pair p) value := by
  have hpair : ∀ v : Word, (base.setPair p v).pair p = v := fun v => by
    cases p
    · exact cat16_hi8_lo8 v
    · exact cat16_hi8_lo8 v
    · exact cat16_hi8_lo8 v
    · exact absurd rfl hp
  refine ⟨⟨base.setPair p 0xDFFF#16, ?_⟩, ⟨base.setPair p 0xE000#16, .prohibitedAccess 0xE000#16, ?_⟩⟩
  · simp only [hpair, State.setPair_mem]
    exact ⟨_, Memory.write_of_route _ (by decide : route .write 0xDFFF#16 = .cell .wram 0x1FFF) (by decide)⟩
  · simp only [hpair, State.setPair_mem]
    exact Memory.write_of_prohibited _ (by decide)

/-- The draw whose every byte is 0xA5. -/
def drawA5 : InitRam :=
  { vram := List.replicate 0x2000 0xA5#8, wram := List.replicate 0x2000 0xA5#8
    oam := List.replicate 0xA0 0xA5#8, hram := List.replicate 0x7F 0xA5#8 }

/-- The first and the last byte of each store of a draw. -/
theorem witness_PowerOnStateForEveryDraw :
    drawA5.vram[0]? = some 0xA5#8 ∧ drawA5.vram[0x1FFF]? = some 0xA5#8 ∧ drawA5.wram[0]? = some 0xA5#8 ∧
      drawA5.wram[0x1FFF]? = some 0xA5#8 ∧ drawA5.oam[0]? = some 0xA5#8 ∧ drawA5.oam[0x9F]? = some 0xA5#8 ∧
      drawA5.hram[0]? = some 0xA5#8 ∧ drawA5.hram[0x7E]? = some 0xA5#8 := by
  have key : ∀ n k : Nat, k < n → (List.replicate n (0xA5#8 : Byte))[k]? = some 0xA5#8 := fun n k h => by
    simp [h]
  and_intros <;> exact key _ _ (by decide)

theorem witness_LoadReplacesOnlyTheCartridge :
    ([0x11#8, 0x22#8] : List Byte)[0]? = some 0x11#8 ∧ ([0x11#8, 0x22#8] : List Byte)[1]? = some 0x22#8 := by decide

/-- An image that ends just before the entry, none at all, and one that just reaches it. -/
theorem witness_FirstStepNeedsACartridgePastTheEntry :
    (List.replicate 0x100 0x00#8).length ≤ 0x100 ∧ ([] : List Byte).length ≤ 0x100 ∧
      (List.replicate 0x101 0x3E#8)[0x100]? = some 0x3E#8 := by
  refine ⟨Nat.le_of_eq List.length_replicate, by decide, ?_⟩
  rw [List.getElem?_replicate, if_pos (by decide)]

/-- An empty title, one that a zero ends, one of 16 bytes, and an image that just holds the window. -/
theorem witness_TitleStopsAtZeroOrSixteenBytes :
    0x144 ≤ (titled []).cartLen ∧ (titled []).title = some [] ∧ (titled [0x54#8]).title = some [0x54#8] ∧
      ((titled (List.replicate 16 0x41#8)).title.map List.length) = some 16 ∧
      0x144 ≤ ({ titled [] with cartLen := 0x144 } : Memory).cartLen := by decide

theorem witness_HlStepsWrapAtSixteenBits :
    (base.setPair .hl 0xFFFF#16).pair .hl = 0xFFFF#16 ∧ (base.setPair .hl 0x0000#16).pair .hl = 0x0000#16 := by decide

/-- Section 2.2 of the vectors: each range's first and last address, with CART_LEN 0x8000, and the cartridge's second
range with CART_LEN 0xC000. -/
theorem witness_ReadFollowsTheRegionTable :
    [0x0000#16, 0x7FFF#16, 0x8000#16, 0x9FFF#16, 0xA000#16, 0xBFFF#16, 0xC000#16, 0xDFFF#16, 0xE000#16, 0xFDFF#16,
        0xFE00#16, 0xFE9F#16, 0xFEA0#16, 0xFEFF#16, 0xFF00#16, 0xFF7F#16, 0xFF80#16, 0xFFFE#16, 0xFFFF#16].map
        (fun x => (base.mem.read x).toOption.isSome) =
      [true, true, true, true, false, false, true, true, true, true, true, true, false, false, false, false, true,
        true, false] ∧
    [0x7FFF#16, 0xA000#16, 0xBFFF#16].map
        (fun x => (({ base.mem with cartLen := 0xC000 } : Memory).read x).toOption.isSome) = [true, true, true] := by
  decide

/-- Section 2.2 of the vectors, the write column, on a canonical memory. -/
theorem witness_WriteFollowsTheRegionTable :
    base.mem.wf = true ∧
    [0x0000#16, 0x7FFF#16, 0x8000#16, 0x9FFF#16, 0xA000#16, 0xBFFF#16, 0xC000#16, 0xDFFF#16, 0xE000#16, 0xFDFF#16,
        0xFE00#16, 0xFE9F#16, 0xFEA0#16, 0xFEFF#16, 0xFF00#16, 0xFF7F#16, 0xFF80#16, 0xFFFE#16, 0xFFFF#16].map
        (fun x => errorOf (base.mem.write x 0x5A#8)) =
      [none, none, none, none, some (.invalidAddress 0xA000#16 .write), some (.invalidAddress 0xBFFF#16 .write), none,
        none, some (.prohibitedAccess 0xE000#16), some (.prohibitedAccess 0xFDFF#16), none, none,
        some (.invalidAddress 0xFEA0#16 .write), some (.invalidAddress 0xFEFF#16 .write),
        some (.invalidAddress 0xFF00#16 .write), some (.invalidAddress 0xFF7F#16 .write), none, none,
        some (.invalidAddress 0xFFFF#16 .write)] := by decide

theorem witness_EchoReadsMirrorWorkingMemory :
    0 < 0x1E00 ∧ 0x1DFF < 0x1E00 ∧ 0xE000#16 + BitVec.ofNat 16 0x1DFF = 0xFDFF#16 := by decide

/-- A write to WRAM; its echo alias is the same byte, an address beside it another. -/
theorem witness_WriteThenReadByAddress :
    base.mem.wf = true ∧ (∃ m, base.mem.write 0xDDFF#16 0x5A#8 = .ok m) ∧ unEcho 0xFDFF#16 = unEcho 0xDDFF#16 ∧
      unEcho 0xDE00#16 ≠ unEcho 0xDDFF#16 ∧ unEcho 0xFE00#16 ≠ unEcho 0xDE00#16 :=
  ⟨by decide, is_ok (by decide), by decide, by decide, by decide⟩

/-- A byte written and written back. -/
theorem witness_MemoryDataIsItsReads :
    base.mem.wf = true ∧ (poke 0xC000#16 0x00#8 (poke 0xC000#16 0x5A#8 base)).mem.wf = true ∧
      (poke 0xC000#16 0x00#8 (poke 0xC000#16 0x5A#8 base)).mem = base.mem := by decide

theorem witness_DecodeOfEncode : Instr.wf .nop = true ∧ (Instr.wf (.ldAtA16Sp 0xFFFF#16)) = true := by decide

theorem witness_EncodeOfDecode :
    ∃ i, decode [0x31#8, 0xF0#8, 0xDF#8, 0x00#8] = .ok (i, [0x00#8]) := ⟨_, rfl⟩

/-- The lengths at which each class of opcode has all of its bytes, or one too few. -/
theorem witness_DecodingIsTotalByOpcode :
    0 ≤ ([] : List Byte).length ∧ 1 ≤ [0xA5#8].length ∧ ([] : List Byte).length < 1 ∧ 2 ≤ [0x34#8, 0x12#8].length ∧
      [0x34#8].length < 2 := by decide

/-- A readable byte, two of them, and an unreadable one under an unfaulted core. -/
theorem witness_FetchesAdvancePcByteByByte :
    (∃ lo hi, (code [0x34#8, 0x12#8] base).mem.read 0xD000#16 = .ok lo ∧
      (code [0x34#8, 0x12#8] base).mem.read (0xD000#16 + 1#16) = .ok hi) ∧
      (base.setPc 0xFFFF#16).mem.read 0xFFFF#16 = .error (.invalidAddress 0xFFFF#16 .read) ∧
      (base.setPc 0xFFFF#16).fault = none ∧ ∃ mk, opcodeRow 0x21#8 = some (.f2 mk) :=
  ⟨⟨0x34#8, 0x12#8, read_ok (by decide), read_ok (by decide)⟩, rfl, rfl, ⟨_, rfl⟩⟩

theorem witness_StepRunsTheDecodedInstruction :
    base.fault = none ∧ holdsAt (code [0x31#8, 0xF0#8, 0xDF#8] base).mem 0xD000#16 [0x31#8, 0xF0#8, 0xDF#8] = true ∧
      decode [0x31#8, 0xF0#8, 0xDF#8] = .ok (.ldSpN16 0xDFF0#16, []) ∧ Instr.wf (.ldSpN16 0xDFF0#16) = true :=
  ⟨rfl, by decide, rfl, rfl⟩

theorem witness_UnsupportedOpcodeLatchesAfterItsFetch :
    base.fault = none ∧ (code [0xFF#8] base).mem.read 0xD000#16 = .ok 0xFF#8 ∧ admitted 0xFF#8 = false ∧
      admitted 0x76#8 = false :=
  ⟨rfl, read_ok (by decide), by decide, by decide⟩

/-- A latched core, and a run that ends. -/
theorem witness_FaultedCoreExecutesNothing :
    (base.latch (.prohibitedAccess 0xE000#16)).fault = some (.prohibitedAccess 0xE000#16) ∧
      run 0xD000#16 0 base = .ended base 0 0 := by decide

/-- A step that raises nothing and one that raises. -/
theorem witness_UnfaultedCoreAlwaysSteps :
    base.fault = none ∧ after (code [0x00#8] base) State.fault = some (.ok 1, none) ∧
      after (code [0x76#8] base) State.fault =
        some (.err (.unsupportedOpcode 0x76#8), some (.unsupportedOpcode 0x76#8)) := by decide

theorem witness_PcMovesOnlyBySequentialFetch :
    (∃ t, step (code [0x31#8, 0xF0#8, 0xDF#8] base) = .next t ∧ t.fault = none) ∧
      ∃ t, step (base.setPc 0xFFFF#16) = .next t ∧ t.fault ≠ none :=
  ⟨⟨_, rfl, rfl⟩, ⟨_, rfl, by decide⟩⟩

/-- The opcode 0xEA with two addresses. -/
theorem witness_CyclesDependOnTheOpcodeAlone :
    (code [0xEA#8, 0x00#8, 0xC0#8] base).mem.read 0xD000#16 = .ok 0xEA#8 ∧
      (code [0xEA#8, 0xFE#8, 0xFF#8] base).mem.read 0xD000#16 = .ok 0xEA#8 ∧
      stepReturn (code [0xEA#8, 0x00#8, 0xC0#8] base) = some (.ok 4) ∧
      stepReturn (code [0xEA#8, 0xFE#8, 0xFF#8] base) = some (.ok 4) :=
  ⟨read_ok (by decide), read_ok (by decide), by decide, by decide⟩

/-- The reset state meets the invariant, unfaulted. -/
theorem reset_inv : State.reset.Inv := ⟨by decide, by decide, fun _ h => by cases h⟩

/-- The state after reset, and a faulted one, into which a cartridge can be loaded too. -/
theorem witness_InvariantHoldsAtPowerOn :
    State.reset.Inv ∧ State.reset.fault = none ∧ (base.latch (.prohibitedAccess 0xFDFF#16)).Inv ∧
      (base.latch (.prohibitedAccess 0xFDFF#16)).fault = some (.prohibitedAccess 0xFDFF#16) :=
  ⟨reset_inv, rfl, ⟨by decide, by decide, fun e h => by cases h; exact route_echo_write (by decide) (by decide)⟩, rfl⟩

/-- A state that meets the invariant and takes a step; a faulted one meets it too. -/
theorem witness_EveryStepKeepsTheInvariant :
    base.Inv ∧ (∃ t, step base = .next t) ∧ (base.latch (.prohibitedAccess 0xFDFF#16)).Inv :=
  ⟨⟨by decide, by decide, fun _ h => by cases h⟩, ⟨_, rfl⟩,
    ⟨by decide, by decide, fun e h => by cases h; exact route_echo_write (by decide) (by decide)⟩⟩

/-- A step from a state whose `f` has its low nibble zero, one that changes `f`, and an instruction but POP AF. -/
theorem witness_FlagByteChangesOnlyByPopAf :
    after (code [0xF1#8] (base.setSp 0xC000#16)) State.f = some (.ok 3, 0x00#8) ∧ base.f = 0xB0#8 ∧
      base.f &&& 0x0F#8 = 0#8 ∧ (Instr.popBc ≠ .popAf) ∧ ∃ t, exec .popBc base = .next t :=
  ⟨by decide, by decide, by decide, by decide, (exec_answers .popBc base).imp fun _ h => h.1⟩

theorem witness_FrameOfFormsThatStoreNothing :
    targets base .popAf = [] ∧ RegName.b ∉ writes .popAf ∧ (∃ t, exec .popAf base = .next t) ∧
      targets base .ldSpHl = [] ∧ RegName.h ∉ writes .ldSpHl ∧ ∃ t, exec .ldSpHl base = .next t :=
  ⟨rfl, by decide, (exec_answers .popAf base).imp fun _ h => h.1, rfl, by decide, ⟨_, rfl⟩⟩

theorem witness_FrameOfOneByteStores :
    targets (base.setPair .hl 0xDFFF#16) .ldAtHlIncA = [0xDFFF#16] ∧ RegName.a ∉ writes .ldAtHlIncA ∧
      (∃ t, exec .ldAtHlIncA (base.setPair .hl 0xDFFF#16) = .next t) ∧ unEcho 0xDFFE#16 ≠ unEcho 0xDFFF#16 :=
  ⟨by decide, by decide, (exec_answers .ldAtHlIncA _).imp fun _ h => h.1, by decide⟩

theorem witness_FrameOfTwoByteStores :
    targets base .pushAf = [0xFFFD#16, 0xFFFC#16] ∧ RegName.a ∉ writes .pushAf ∧
      (∃ t, exec .pushAf base = .next t) ∧ unEcho 0xFFFE#16 ≠ unEcho 0xFFFD#16 ∧
      unEcho 0xFFFE#16 ≠ unEcho 0xFFFC#16 :=
  ⟨by decide, by decide, (exec_answers .pushAf base).imp fun _ h => h.1, by decide, by decide⟩

/-- A register that is not read: one that is written (`a` of LD A,B) and one that is not (`c` of it). -/
theorem witness_OutcomeDependsOnReadRegistersAlone :
    base.fault = none ∧ RegName.a ∉ reads .ldAB ∧ RegName.a ∈ writes .ldAB ∧ RegName.c ∉ reads .ldAB ∧
      RegName.c ∉ writes .ldAB ∧ ∃ t, exec .ldAB base = .next t ∧ t.fault = none :=
  ⟨rfl, by decide, by decide, by decide, by decide, ⟨_, rfl, rfl⟩⟩

/-- Each error that executing can raise, raised. -/
theorem witness_ErrorsEachInstructionCanRaise :
    base.fault = none ∧
      exec (.ldAAtA16 0xFF7F#16) base = .next (base.latch (.invalidAddress 0xFF7F#16 .read)) ∧
      exec (.ldAtA16A 0xFF7F#16) base = .next (base.latch (.invalidAddress 0xFF7F#16 .write)) ∧
      exec (.ldAtA16A 0xFDFF#16) base = .next (base.latch (.prohibitedAccess 0xFDFF#16)) :=
  ⟨rfl, rfl, rfl, rfl⟩

theorem witness_MoveCopiesRegister : RunsSomewhere [0x7D#8] ∧ Reg8.b = Reg8.b := ⟨runs_one _, rfl⟩

theorem witness_LoadImmediateSetsRegister (n : Byte) : RunsSomewhere [0x3E#8, n] := runs_two _ n

theorem witness_StoreImmediateAtHl (n : Byte) :
    RunsSomewhere [0x36#8, n] ∧ StoresSomewhere (fun s => s.pair .hl) (fun _ => n) :=
  ⟨runs_two _ n, stores_pair .hl (by decide) _⟩

theorem witness_LoadRegisterFromHl : RunsSomewhere [0x66#8] ∧ LoadsSomewhere (fun s => s.pair .hl) :=
  ⟨runs_one _, loads_pair .hl (by decide)⟩

theorem witness_StoreRegisterAtHl (src : Reg8) :
    RunsSomewhere [0x74#8] ∧ StoresSomewhere (fun s => s.pair .hl) (fun s => s.reg src) :=
  ⟨runs_one _, stores_pair .hl (by decide) _⟩

theorem witness_LoadAccumulatorAtBcAndDe :
    RunsSomewhere [0x0A#8] ∧ LoadsSomewhere (fun s => s.pair .bc) ∧ RunsSomewhere [0x1A#8] ∧
      LoadsSomewhere (fun s => s.pair .de) :=
  ⟨runs_one _, loads_pair .bc (by decide), runs_one _, loads_pair .de (by decide)⟩

theorem witness_StoreAccumulatorAtBcAndDe :
    RunsSomewhere [0x02#8] ∧ StoresSomewhere (fun s => s.pair .bc) (fun s => s.a) ∧ RunsSomewhere [0x12#8] ∧
      StoresSomewhere (fun s => s.pair .de) (fun s => s.a) ∧
      (base.setPair .de 0xE000#16).pair .de = 0xE000#16 :=
  ⟨runs_one _, stores_pair .bc (by decide) _, runs_one _, stores_pair .de (by decide) _, by decide⟩

theorem witness_LoadAccumulatorAbsolute :
    RunsSomewhere [0xFA#8, 0xFE#8, 0xFF#8] ∧ (∃ v, base.mem.read 0xFFFE#16 = .ok v) ∧
      ∃ e, base.mem.read 0xFFFF#16 = .error e :=
  ⟨runs_three _ _ _, ⟨0#8, read_ok (by decide)⟩, ⟨_, rfl⟩⟩

theorem witness_StoreAccumulatorAbsolute :
    RunsSomewhere [0xEA#8, 0xFE#8, 0xFF#8] ∧ (∃ m, base.mem.write 0xFFFE#16 base.a = .ok m) ∧
      ∃ e, base.mem.write 0xFFFF#16 base.a = .error e :=
  ⟨runs_three _ _ _, is_ok (by decide), ⟨_, rfl⟩⟩

/-- The ends of the ranges of `c` in R111 and R112, and of a8 in R113 and R114; the two clauses meet nowhere. -/
theorem port_boundaries :
    ((0x00#8 : Byte).toNat < 0x80) ∧ ((0x7F#8 : Byte).toNat < 0x80) ∧
      (0x80 ≤ (0x80#8 : Byte).toNat ∧ (0x80#8 : Byte).toNat ≤ 0xFE) ∧
      (0x80 ≤ (0xFE#8 : Byte).toNat ∧ (0xFE#8 : Byte).toNat ≤ 0xFE) ∧ (0xFF#8 : Byte).toNat = 0xFF ∧
      ∀ n : Byte, ¬((n.toNat < 0x80 ∨ n.toNat = 0xFF) ∧ 0x80 ≤ n.toNat ∧ n.toNat ≤ 0xFE) := by decide

theorem witness_PortLoadByC :
    RunsSomewhere [0xF2#8] ∧
      [0x00#8, 0x7F#8, 0x80#8, 0xFE#8, 0xFF#8].map (fun n => (base.setReg .c n).c.toNat) = [0, 0x7F, 0x80, 0xFE, 0xFF] :=
  ⟨runs_one _, by decide⟩

theorem witness_PortStoreByC :
    RunsSomewhere [0xE2#8] ∧
      [0x00#8, 0x7F#8, 0x80#8, 0xFE#8, 0xFF#8].map (fun n => (base.setReg .c n).c.toNat) = [0, 0x7F, 0x80, 0xFE, 0xFF] :=
  ⟨runs_one _, by decide⟩

theorem witness_PortLoadByImmediate (n : Byte) :
    RunsSomewhere [0xF0#8, n] ∧
      [0x00#8, 0x7F#8, 0x80#8, 0xFE#8, 0xFF#8].map (fun n : Byte => n.toNat) = [0, 0x7F, 0x80, 0xFE, 0xFF] :=
  ⟨runs_two _ n, by decide⟩

theorem witness_PortStoreByImmediate (n : Byte) :
    RunsSomewhere [0xE0#8, n] ∧
      [0x00#8, 0x7F#8, 0x80#8, 0xFE#8, 0xFF#8].map (fun n : Byte => n.toNat) = [0, 0x7F, 0x80, 0xFE, 0xFF] :=
  ⟨runs_two _ n, by decide⟩

theorem witness_StoreAndIncrementHl :
    RunsSomewhere [0x22#8] ∧ StoresSomewhere (fun s => s.pair .hl) (fun s => s.a) ∧
      (base.setPair .hl 0xFFFF#16).pair .hl = 0xFFFF#16 :=
  ⟨runs_one _, stores_pair .hl (by decide) _, by decide⟩

theorem witness_LoadAndIncrementHl :
    RunsSomewhere [0x2A#8] ∧ LoadsSomewhere (fun s => s.pair .hl) ∧
      (base.setPair .hl 0xFFFF#16).pair .hl = 0xFFFF#16 :=
  ⟨runs_one _, loads_pair .hl (by decide), by decide⟩

/-- `hl` at zero, with a cartridge and without one. -/
theorem witness_StoreAndDecrementHl :
    RunsSomewhere [0x32#8] ∧ StoresSomewhere (fun s => s.pair .hl) (fun s => s.a) ∧
      (base.setPair .hl 0x0000#16).pair .hl = 0x0000#16 ∧ 0 < (base.setPair .hl 0x0000#16).mem.cartLen ∧
      (State.reset.setPair .hl 0x0000#16).pair .hl = 0x0000#16 ∧
      (State.reset.setPair .hl 0x0000#16).mem.cartLen = 0 :=
  ⟨runs_one _, stores_pair .hl (by decide) _, by decide, by decide, by decide, by decide⟩

theorem witness_LoadAndDecrementHl :
    RunsSomewhere [0x3A#8] ∧ LoadsSomewhere (fun s => s.pair .hl) ∧
      (base.setPair .hl 0x0000#16).pair .hl = 0x0000#16 ∧ 0 < (base.setPair .hl 0x0000#16).mem.cartLen :=
  ⟨runs_one _, loads_pair .hl (by decide), by decide, by decide⟩

theorem witness_LoadImmediateWord (lo hi : Byte) :
    RunsSomewhere [0x01#8, lo, hi] ∧ RunsSomewhere [0x11#8, lo, hi] ∧ RunsSomewhere [0x21#8, lo, hi] ∧
      RunsSomewhere [0x31#8, lo, hi] :=
  ⟨runs_three _ lo hi, runs_three _ lo hi, runs_three _ lo hi, runs_three _ lo hi⟩

/-- Two bytes that can be stored one after the other. -/
theorem writes_twice {m : Memory} {x y : Word} {i j : StoreId} {k q : Nat} (v w : Byte)
    (hx : route .write x = .cell i k) (hk : k < m.size i) (hy : route .write y = .cell j q) (hq : q < m.size j) :
    ∃ m1 m2, m.write x v = .ok m1 ∧ m1.write y w = .ok m2 :=
  ⟨_, _, Memory.write_of_route v hx hk, Memory.write_of_route w hy (by simpa using hq)⟩

/-- A byte that can be stored, and then one that no store answers. -/
theorem writes_then_fails {m : Memory} {x y : Word} {i : StoreId} {k : Nat} (v w : Byte)
    (hx : route .write x = .cell i k) (hk : k < m.size i)
    (hy : route .write y = .unmapped ∨ route .write y = .prohibited) :
    ∃ m1 e, m.write x v = .ok m1 ∧ m1.write y w = .error e :=
  hy.elim (fun h => ⟨_, _, Memory.write_of_route v hx hk, Memory.write_of_unmapped w h⟩)
    (fun h => ⟨_, _, Memory.write_of_route v hx hk, Memory.write_of_prohibited w h⟩)

/-- Both bytes stored; the first refused; the second refused. -/
theorem witness_StoreStackPointer (lo hi : Byte) :
    RunsSomewhere [0x08#8, lo, hi] ∧
      (∃ m1 m2, base.mem.write 0xDFFE#16 (lo8 base.sp) = .ok m1 ∧ m1.write 0xDFFF#16 (hi8 base.sp) = .ok m2) ∧
      (∃ e, base.mem.write 0xE000#16 (lo8 base.sp) = .error e) ∧
      ∃ m1 e, base.mem.write 0xDFFF#16 (lo8 base.sp) = .ok m1 ∧ m1.write 0xE000#16 (hi8 base.sp) = .error e :=
  ⟨runs_three _ lo hi,
    writes_twice _ _ (by decide : route .write 0xDFFE#16 = .cell .wram 0x1FFE) (by decide)
      (by decide : route .write 0xDFFF#16 = .cell .wram 0x1FFF) (by decide),
    ⟨_, Memory.write_of_prohibited _ (by decide)⟩,
    writes_then_fails _ _ (by decide : route .write 0xDFFF#16 = .cell .wram 0x1FFF) (by decide) (by decide)⟩

theorem witness_TransferHlToSp : RunsSomewhere [0xF9#8] := runs_one _

/-- Both bytes stored; the first refused; the second refused; and each value of `sp` that R150 names. -/
theorem witness_PushStoresHighThenLow (v : Word) :
    RunsSomewhere [0xC5#8] ∧
      (∃ m1 m2, base.mem.write (0xC002#16 - 1#16) (hi8 v) = .ok m1 ∧ m1.write (0xC002#16 - 2#16) (lo8 v) = .ok m2) ∧
      (∃ e, base.mem.write (0x0000#16 - 1#16) (hi8 v) = .error e) ∧
      (∃ m1 e, base.mem.write (0x0001#16 - 1#16) (hi8 v) = .ok m1 ∧ m1.write (0x0001#16 - 2#16) (lo8 v) = .error e) ∧
      [0xC002#16, 0x0000#16, 0x0001#16, 0xFF80#16, 0xE001#16].map (fun w => (base.setSp w).sp) =
        [0xC002#16, 0x0000#16, 0x0001#16, 0xFF80#16, 0xE001#16] :=
  ⟨runs_one _,
    writes_twice _ _ (by decide : route .write (0xC002#16 - 1#16) = .cell .wram 1) (by decide)
      (by decide : route .write (0xC002#16 - 2#16) = .cell .wram 0) (by decide),
    ⟨_, Memory.write_of_unmapped _ (by decide)⟩,
    writes_then_fails _ _ (by decide : route .write (0x0001#16 - 1#16) = .cell .cart 0) (by decide) (by decide),
    by decide⟩

/-- Both bytes read; the first refused; the second refused. -/
theorem witness_PopLoadsLowThenHigh :
    Pair.bc ≠ .af ∧ RunsSomewhere [0xC1#8] ∧
      (∃ lo hi, base.mem.read 0xDFFF#16 = .ok lo ∧ base.mem.read (0xDFFF#16 + 1#16) = .ok hi) ∧
      (∃ e, base.mem.read 0xFFFF#16 = .error e) ∧
      (∃ lo e, base.mem.read 0xFFFE#16 = .ok lo ∧ base.mem.read (0xFFFE#16 + 1#16) = .error e) ∧
      (base.setSp 0xFFFE#16).sp = 0xFFFE#16 ∧ (base.setSp 0xFFFF#16).sp = 0xFFFF#16 :=
  ⟨by decide, runs_one _, ⟨0#8, 0#8, read_ok (by decide), read_ok (by decide)⟩, ⟨_, rfl⟩,
    ⟨0#8, _, read_ok (by decide), rfl⟩, rfl, rfl⟩

theorem witness_PopAfLoadsAccumulatorAndFlags :
    RunsSomewhere [0xF1#8] ∧
      (∃ lo hi, base.mem.read 0xDFFF#16 = .ok lo ∧ base.mem.read (0xDFFF#16 + 1#16) = .ok hi) ∧
      (∃ e, base.mem.read 0xFFFF#16 = .error e) ∧
      (∃ lo e, base.mem.read 0xFFFE#16 = .ok lo ∧ base.mem.read (0xFFFE#16 + 1#16) = .error e) ∧
      Instr.pushAf ≠ .popAf ∧ ∃ t, exec .pushAf base = .next t :=
  ⟨runs_one _, ⟨0#8, 0#8, read_ok (by decide), read_ok (by decide)⟩, ⟨_, rfl⟩, ⟨0#8, _, read_ok (by decide), rfl⟩,
    by decide, (exec_answers .pushAf base).imp fun _ h => h.1⟩

theorem witness_PopAfterPushGivesTheValueBack :
    base.mem.wf = true ∧ base.fault = none ∧ ∃ t, exec (pushInstr .af) base = .next t ∧ t.fault = none :=
  ⟨by decide, rfl, ⟨_, rfl, rfl⟩⟩

theorem witness_NopChangesNothing : RunsSomewhere [0x00#8] := runs_one _

theorem witness_StopIsAOneByteNoOperation (v : Byte) : RunsSomewhere [0x10#8] ∧ RunsSomewhere [0x10#8, v] :=
  ⟨runs_one _, runs_two _ v⟩

/-- A form that stores one byte, at the byte whose echo alias `pc` is; and both bytes of a PUSH, the low one at the last
address that has an echo alias, the high one at the first that has none. -/
theorem witness_StoredByteIsTheNextOpcode :
    base.mem.wf = true ∧ base.fault = none ∧
      (∃ t, exec (.ldAtA16A 0xC105#16) (base.setPc 0xE105#16) = .next t ∧ t.fault = none) ∧
      (targets base (.ldAtA16A 0xC105#16))[0]? = some 0xC105#16 ∧
      (storedBytes base (.ldAtA16A 0xC105#16))[0]? = some base.a ∧
      unEcho (base.setPc 0xE105#16).pc = unEcho 0xC105#16 ∧
      (∃ t, exec .pushBc (base.setSp 0xDE01#16) = .next t ∧ t.fault = none) ∧
      (targets (base.setSp 0xDE01#16) .pushBc)[0]? = some 0xDE00#16 ∧
      (targets (base.setSp 0xDE01#16) .pushBc)[1]? = some 0xDDFF#16 ∧
      (storedBytes (base.setSp 0xDE01#16) .pushBc)[0]? = some base.b ∧
      (storedBytes (base.setSp 0xDE01#16) .pushBc)[1]? = some base.c ∧ unEcho 0xFDFF#16 = unEcho 0xDDFF#16 :=
  ⟨by decide, rfl, ⟨_, rfl, rfl⟩, by decide, by decide, by decide, ⟨_, rfl, rfl⟩, by decide, by decide, by decide,
    by decide, by decide⟩

/-- How a run ended: its latch, `b`, the steps made and their cycles. -/
def ending : RunEnd → Option CoreError × Byte × Option (Nat × Nat)
  | .ended t n cycles => (t.fault, t.b, some (n, cycles))
  | .faulted _ t n cycles => (t.fault, t.b, some (n, cycles))
  | .outOfFuel t => (t.fault, t.b, none)
  | .refused _ => (none, 0#8, none)

/-- A run of two steps that ends with its last fuel, one that stands at STOP_PC and makes no step, one whose second step
raises an error, one from a faulted core, and two whose fuel is spent, at once and after one step. -/
theorem witness_EndedRunIsTheStepsOfTheCore :
    ending (run 0xD003#16 2 (code [0x3E#8, 0x77#8, 0x47#8] base)) = (none, 0x77#8, some (2, 3)) ∧
      ending (run 0xD000#16 0 base) = (none, base.b, some (0, 0)) ∧
      ending (run 0xD003#16 2 (code [0x47#8, 0x76#8] (base.setReg .a 0x77#8))) =
        (some (.unsupportedOpcode 0x76#8), 0x77#8, some (1, 1)) ∧
      ending (run 0xD000#16 1 (base.latch (.unsupportedOpcode 0x76#8))) =
        (some (.unsupportedOpcode 0x76#8), base.b, some (0, 0)) ∧
      ending (run 0xD003#16 0 base) = (none, base.b, none) ∧
      ending (run 0xD003#16 1 (code [0x3E#8, 0x77#8, 0x47#8] base)) = (none, base.b, none) := by
  and_intros <;> decide

end Sys2Proof.Tests
end

section
/-!
SUPPORT. The instructions by form: one constructor for each shared operation that a meaning is, with its operands as
data. `formOf` names the form of each instruction once; what an instruction executes, reads, writes and stores to is
then read off its form, and a proof about all 101 instructions is a split over eleven forms.
-/

namespace Sys2Proof.Proofs

open Sys2Proof.Machine Sys2Proof.Claims

/-! ### Registers by name -/

/-- The name in R28 of an 8-bit operand. -/
def regName : Reg8 → RegName
  | .b => .b
  | .c => .c
  | .d => .d
  | .e => .e
  | .h => .h
  | .l => .l
  | .a => .a

/-- The names of the two fields of a pair (spec/10_state.md R23). -/
def pairNames : Pair → List RegName
  | .bc => [.b, .c]
  | .de => [.d, .e]
  | .hl => [.h, .l]
  | .af => [.a, .f]

/-! ### Operands and forms -/

/-- An 8-bit operand: a register or an immediate. -/
inductive Operand8 where
  | reg (r : Reg8)
  | imm (n : Byte)

/-- A 16-bit operand, most often an address: a pair, a port-style address or an immediate. -/
inductive Operand16 where
  | pair (p : Pair)
  | port (o : Operand8)
  | imm (n : Word)

/-- Which way the `HL+` and `HL-` forms move `hl`. -/
inductive HlStep where
  | inc
  | dec

/-- The shared operation that an instruction's meaning is. -/
inductive Form where
  /-- NOP and STOP. -/
  | idle
  /-- `LD r,r'` and `LD r,n8`. -/
  | set (dst : Reg8) (src : Operand8)
  /-- `LD rr,n16`. -/
  | setPair (p : Pair) (n : Word)
  /-- `LD SP,n16` and `LD SP,HL`. -/
  | setSp (src : Operand16)
  /-- A register from memory. -/
  | load (dst : Reg8) (addr : Operand16)
  /-- `LD A,(HL+)` and `LD A,(HL-)`. -/
  | loadStep (d : HlStep)
  /-- One byte to memory. -/
  | store (addr : Operand16) (src : Operand8)
  /-- `LD (HL+),A` and `LD (HL-),A`. -/
  | storeStep (d : HlStep)
  /-- `LD (a16),SP`. -/
  | storeSp (n : Word)
  | push (p : Pair)
  | pop (p : Pair)

/-- The form of each instruction. -/
def formOf : Instr → Form
  | .nop | .stop => .idle
  | .ldBcN16 n => .setPair .bc n
  | .ldDeN16 n => .setPair .de n
  | .ldHlN16 n => .setPair .hl n
  | .ldSpN16 n => .setSp (.imm n)
  | .ldSpHl => .setSp (.pair .hl)
  | .ldAtA16Sp n => .storeSp n
  | .ldAtBcA => .store (.pair .bc) (.reg .a)
  | .ldAtDeA => .store (.pair .de) (.reg .a)
  | .ldAtA16A n => .store (.imm n) (.reg .a)
  | .ldhAtA8A n => .store (.port (.imm n)) (.reg .a)
  | .ldhAtCA => .store (.port (.reg .c)) (.reg .a)
  | .ldAtHlN8 n => .store (.pair .hl) (.imm n)
  | .ldAtHlB => .store (.pair .hl) (.reg .b)
  | .ldAtHlC => .store (.pair .hl) (.reg .c)
  | .ldAtHlD => .store (.pair .hl) (.reg .d)
  | .ldAtHlE => .store (.pair .hl) (.reg .e)
  | .ldAtHlH => .store (.pair .hl) (.reg .h)
  | .ldAtHlL => .store (.pair .hl) (.reg .l)
  | .ldAtHlA => .store (.pair .hl) (.reg .a)
  | .ldAtHlIncA => .storeStep .inc
  | .ldAtHlDecA => .storeStep .dec
  | .ldAAtHlInc => .loadStep .inc
  | .ldAAtHlDec => .loadStep .dec
  | .ldAAtBc => .load .a (.pair .bc)
  | .ldAAtDe => .load .a (.pair .de)
  | .ldAAtA16 n => .load .a (.imm n)
  | .ldhAAtA8 n => .load .a (.port (.imm n))
  | .ldhAAtC => .load .a (.port (.reg .c))
  | .ldBAtHl => .load .b (.pair .hl)
  | .ldCAtHl => .load .c (.pair .hl)
  | .ldDAtHl => .load .d (.pair .hl)
  | .ldEAtHl => .load .e (.pair .hl)
  | .ldHAtHl => .load .h (.pair .hl)
  | .ldLAtHl => .load .l (.pair .hl)
  | .ldAAtHl => .load .a (.pair .hl)
  | .pushBc => .push .bc
  | .pushDe => .push .de
  | .pushHl => .push .hl
  | .pushAf => .push .af
  | .popBc => .pop .bc
  | .popDe => .pop .de
  | .popHl => .pop .hl
  | .popAf => .pop .af
  | .ldBN8 n => .set .b (.imm n)
  | .ldCN8 n => .set .c (.imm n)
  | .ldDN8 n => .set .d (.imm n)
  | .ldEN8 n => .set .e (.imm n)
  | .ldHN8 n => .set .h (.imm n)
  | .ldLN8 n => .set .l (.imm n)
  | .ldAN8 n => .set .a (.imm n)
  | .ldBB => .set .b (.reg .b)
  | .ldBC => .set .b (.reg .c)
  | .ldBD => .set .b (.reg .d)
  | .ldBE => .set .b (.reg .e)
  | .ldBH => .set .b (.reg .h)
  | .ldBL => .set .b (.reg .l)
  | .ldBA => .set .b (.reg .a)
  | .ldCB => .set .c (.reg .b)
  | .ldCC => .set .c (.reg .c)
  | .ldCD => .set .c (.reg .d)
  | .ldCE => .set .c (.reg .e)
  | .ldCH => .set .c (.reg .h)
  | .ldCL => .set .c (.reg .l)
  | .ldCA => .set .c (.reg .a)
  | .ldDB => .set .d (.reg .b)
  | .ldDC => .set .d (.reg .c)
  | .ldDD => .set .d (.reg .d)
  | .ldDE => .set .d (.reg .e)
  | .ldDH => .set .d (.reg .h)
  | .ldDL => .set .d (.reg .l)
  | .ldDA => .set .d (.reg .a)
  | .ldEB => .set .e (.reg .b)
  | .ldEC => .set .e (.reg .c)
  | .ldED => .set .e (.reg .d)
  | .ldEE => .set .e (.reg .e)
  | .ldEH => .set .e (.reg .h)
  | .ldEL => .set .e (.reg .l)
  | .ldEA => .set .e (.reg .a)
  | .ldHB => .set .h (.reg .b)
  | .ldHC => .set .h (.reg .c)
  | .ldHD => .set .h (.reg .d)
  | .ldHE => .set .h (.reg .e)
  | .ldHH => .set .h (.reg .h)
  | .ldHL => .set .h (.reg .l)
  | .ldHA => .set .h (.reg .a)
  | .ldLB => .set .l (.reg .b)
  | .ldLC => .set .l (.reg .c)
  | .ldLD => .set .l (.reg .d)
  | .ldLE => .set .l (.reg .e)
  | .ldLH => .set .l (.reg .h)
  | .ldLL => .set .l (.reg .l)
  | .ldLA => .set .l (.reg .a)
  | .ldAB => .set .a (.reg .b)
  | .ldAC => .set .a (.reg .c)
  | .ldAD => .set .a (.reg .d)
  | .ldAE => .set .a (.reg .e)
  | .ldAH => .set .a (.reg .h)
  | .ldAL => .set .a (.reg .l)
  | .ldAA => .set .a (.reg .a)

/-! ### What a form executes, reads, writes and stores to -/

/-- The value of an 8-bit operand. -/
def Operand8.value (s : State) : Operand8 → Byte
  | .reg r => s.reg r
  | .imm n => n

/-- The value of a 16-bit operand. -/
def Operand16.value (s : State) : Operand16 → Word
  | .pair p => s.pair p
  | .port o => portAddress (o.value s)
  | .imm n => n

/-- `hl` moved by one. -/
def HlStep.next : HlStep → Word → Word
  | .inc, w => w + 1#16
  | .dec, w => w - 1#16

/-- `incHl` or `decHl`. -/
def stepHl (d : HlStep) (s : State) : State := s.setPair .hl (d.next (s.pair .hl))

/-- The shared operation of a form. -/
def Form.exec (s : State) : Form → Result
  | .idle => .next s
  | .set dst src => .next (s.setReg dst (src.value s))
  | .setPair p n => .next (s.setPair p n)
  | .setSp src => .next (s.setSp (src.value s))
  | .load dst addr => s.load dst (addr.value s)
  | .loadStep d => s.readThen (s.pair .hl) fun v => .next (stepHl d (s.setReg .a v))
  | .store addr src => s.store (addr.value s) (src.value s)
  | .storeStep d => s.writeThen (s.pair .hl) s.a fun t => .next (stepHl d t)
  | .storeSp n => s.storeWord n s.sp
  | .push p => s.push (s.pair p)
  | .pop p => s.pop p

/-- The registers an 8-bit operand reads. -/
def Operand8.reads : Operand8 → List RegName
  | .reg r => [regName r]
  | .imm _ => []

/-- The registers a 16-bit operand reads. -/
def Operand16.reads : Operand16 → List RegName
  | .pair p => pairNames p
  | .port o => o.reads
  | .imm _ => []

/-- The registers a form reads. -/
def Form.reads : Form → List RegName
  | .idle | .setPair _ _ => []
  | .set _ src => src.reads
  | .setSp src => src.reads
  | .load _ addr => addr.reads
  | .loadStep _ => [.h, .l]
  | .store addr src => src.reads ++ addr.reads
  | .storeStep _ => [.a, .h, .l]
  | .storeSp _ | .pop _ => [.sp]
  | .push p => pairNames p ++ [.sp]

/-- The registers a form writes. -/
def Form.writes : Form → List RegName
  | .idle | .store _ _ | .storeSp _ => []
  | .set dst _ | .load dst _ => [regName dst]
  | .setPair p _ => pairNames p
  | .setSp _ | .push _ => [.sp]
  | .loadStep _ => [.a, .h, .l]
  | .storeStep _ => [.h, .l]
  | .pop p => pairNames p ++ [.sp]

/-- The addresses a form stores to, in order. -/
def Form.targets (s : State) : Form → List Word
  | .store addr _ => [addr.value s]
  | .storeStep _ => [s.pair .hl]
  | .storeSp n => [n, n + 1#16]
  | .push _ => [s.sp - 1#16, s.sp - 2#16]
  | .idle | .set _ _ | .setPair _ _ | .setSp _ | .load _ _ | .loadStep _ | .pop _ => []

/-! ### An instruction is its form -/

theorem exec_eq_form (i : Instr) (s : State) : exec i s = (formOf i).exec s := by cases i <;> rfl

/-- The two lists differ for `LD (HL),H` and `LD (HL),L` alone, whose form names the stored register once more. -/
theorem mem_reads_iff_form (i : Instr) (q : RegName) : q ∈ reads i ↔ q ∈ (formOf i).reads := by
  cases i
  case ldAtHlH => cases q <;> decide
  case ldAtHlL => cases q <;> decide
  all_goals exact Iff.rfl

theorem writes_eq_form (i : Instr) : writes i = (formOf i).writes := by cases i <;> rfl

theorem targets_eq_form (s : State) (i : Instr) : targets s i = (formOf i).targets s := by cases i <;> rfl

end Sys2Proof.Proofs
end

section
/-!
SUPPORT. What every instruction keeps and what it can store, said once: `exec_frame` is the inversion lemma from which
the invariant, the frames and the moves of `pc` follow.
-/

namespace Sys2Proof.Proofs

open Sys2Proof.Machine Sys2Proof.Claims

/-! ### Values of registers -/

theorem valueOf_setReg_ne {s : State} {r : Reg8} {v : Byte} {q : RegName} (h : q ≠ regName r) :
    valueOf (s.setReg r v) q = valueOf s q := by
  cases q <;> cases r <;> simp_all [valueOf, regName]

theorem valueOf_setPair_of_notMem {s : State} {p : Pair} {v : Word} {q : RegName} (h : q ∉ pairNames p) :
    valueOf (s.setPair p v) q = valueOf s q := by
  cases q <;> cases p <;> simp_all [valueOf, pairNames]

theorem valueOf_setSp_ne {s : State} {v : Word} {q : RegName} (h : q ≠ .sp) :
    valueOf (s.setSp v) q = valueOf s q := by
  cases q <;> simp_all [valueOf]

@[simp] theorem valueOf_setMem (s : State) (m : Memory) (q : RegName) : valueOf (s.setMem m) q = valueOf s q := by
  cases q <;> rfl

@[simp] theorem valueOf_latch (s : State) (e : CoreError) (q : RegName) : valueOf (s.latch e) q = valueOf s q := by
  cases q <;> rfl

/-- Equal values of `f` as a register of R28 are equal flag bytes. -/
theorem f_eq_of_valueOf {s t : State} (h : valueOf t .f = valueOf s .f) : t.f = s.f := by
  have := congrArg (BitVec.setWidth 8) h
  simpa [valueOf] using this

/-! ### The registers -/

/-- `t` has the registers of `s` but for those of `W`; `pc` is among the kept, and what `f` may hold anew has been
masked (spec/10_state.md R22). -/
structure Keeps (W : List RegName) (s t : State) : Prop where
  regs : ∀ q, q ∉ W → valueOf t q = valueOf s q
  pc : t.pc = s.pc
  flags : t.f = s.f ∨ ∃ v, t.f = maskFlags v

namespace Keeps

variable {W : List RegName} {s t : State}

theorem refl (W : List RegName) (s : State) : Keeps W s s := ⟨fun _ _ => rfl, rfl, .inl rfl⟩

theorem setReg {r : Reg8} (h : Keeps W s t) (hr : regName r ∈ W) (v : Byte) : Keeps W s (t.setReg r v) where
  regs q hq := (valueOf_setReg_ne (by rintro rfl; exact hq hr)).trans (h.regs q hq)
  pc := by simpa using h.pc
  flags := by simpa using h.flags

theorem setPair {p : Pair} (h : Keeps W s t) (hp : pairNames p ⊆ W) (v : Word) : Keeps W s (t.setPair p v) where
  regs q hq := (valueOf_setPair_of_notMem (fun hqp => hq (hp hqp))).trans (h.regs q hq)
  pc := by simpa using h.pc
  flags := by
    rw [State.setPair_f]
    split
    · exact .inr ⟨_, rfl⟩
    · exact h.flags

theorem setSp (h : Keeps W s t) (hsp : .sp ∈ W) (v : Word) : Keeps W s (t.setSp v) where
  regs q hq := (valueOf_setSp_ne (by rintro rfl; exact hq hsp)).trans (h.regs q hq)
  pc := h.pc
  flags := h.flags

theorem setMem (h : Keeps W s t) (m : Memory) : Keeps W s (t.setMem m) where
  regs q hq := (valueOf_setMem t m q).trans (h.regs q hq)
  pc := h.pc
  flags := h.flags

theorem latch (h : Keeps W s t) (e : CoreError) : Keeps W s (t.latch e) where
  regs q hq := (valueOf_latch t e q).trans (h.regs q hq)
  pc := h.pc
  flags := h.flags

end Keeps

/-! ### The stores to memory -/

/-- `n` is `m` after writes to the addresses in order, up to the first that raises, and `raised` is its error. -/
inductive Stores : List Word → Memory → Memory → Option CoreError → Prop where
  | done (m : Memory) : Stores [] m m none
  | write {a : Word} {v : Byte} {as : List Word} {m m1 n : Memory} {raised : Option CoreError}
      (h : m.write a v = .ok m1) (rest : Stores as m1 n raised) : Stores (a :: as) m n raised
  | raises {a : Word} {as : List Word} {m : Memory} {e : CoreError}
      (he : e = .invalidAddress a .write ∨ e = .prohibitedAccess a) (hg : e.Genuine m) :
      Stores (a :: as) m m (some e)

namespace Stores

variable {as : List Word} {m n : Memory} {raised : Option CoreError}

theorem cartLen (h : Stores as m n raised) : n.cartLen = m.cartLen := by
  induction h with
  | done | raises => rfl
  | write hw _ ih => exact ih.trans (Memory.write_cartLen hw)

theorem wf (h : Stores as m n raised) (hm : m.wf = true) : n.wf = true := by
  induction h with
  | done | raises => exact hm
  | write hw _ ih => exact ih (Memory.write_wf hm hw)

theorem genuine {e : CoreError} (h : Stores as m n (some e)) : e.Genuine n := by
  generalize hr : some e = raised at h
  induction h with
  | done => cases hr
  | write _ _ ih => exact ih hr
  | raises _ hg =>
    cases hr
    exact hg

/-- The error is a write error at one of the addresses. -/
theorem raised_at {e : CoreError} (h : Stores as m n (some e)) :
    ∃ a ∈ as, e = .invalidAddress a .write ∨ e = .prohibitedAccess a := by
  generalize hr : some e = raised at h
  induction h with
  | done => cases hr
  | write _ _ ih =>
    obtain ⟨a, ha, he⟩ := ih hr
    exact ⟨a, List.mem_cons_of_mem _ ha, he⟩
  | raises he _ =>
    cases hr
    exact ⟨_, List.mem_cons_self, he⟩

end Stores

/-- The data accesses of an instruction that stores to `as`: its stores in order, or, where it has none, a read that
raises. -/
inductive Accesses (as : List Word) (m n : Memory) (raised : Option CoreError) : Prop where
  | stores (h : Stores as m n raised)
  | readRaises (a : Word) (has : as = []) (hmem : n = m) (hr : raised = some (.invalidAddress a .read))
      (hg : (CoreError.invalidAddress a .read).Genuine m)

namespace Accesses

variable {as : List Word} {m n : Memory} {raised : Option CoreError}

theorem cartLen (h : Accesses as m n raised) : n.cartLen = m.cartLen := by
  cases h with
  | stores h => exact h.cartLen
  | readRaises a has hmem => rw [hmem]

theorem wf (h : Accesses as m n raised) (hm : m.wf = true) : n.wf = true := by
  cases h with
  | stores h => exact h.wf hm
  | readRaises a has hmem => rwa [hmem]

theorem genuine {e : CoreError} (h : Accesses as m n (some e)) : e.Genuine n := by
  cases h with
  | stores h => exact h.genuine
  | readRaises a has hmem hr hg =>
    cases hr
    exact hmem ▸ hg

end Accesses

/-! ### The frame of an instruction -/

/-- What a run from `s` to `t` keeps and accesses: the registers outside `W`, and the memory but for stores to `as`; the
latch holds the error raised, or what it held. -/
structure Frame (W : List RegName) (as : List Word) (s t : State) : Prop where
  keeps : Keeps W s t
  accesses : ∃ raised, t.fault = raised.or s.fault ∧ Accesses as s.mem t.mem raised

namespace Frame

variable {W : List RegName} {as : List Word} {s t : State}

/-- The frame of a run that raised nothing and stored nothing. -/
theorem of_same_mem (hk : Keeps W s t) (hm : t.mem = s.mem) (hf : t.fault = s.fault) : Frame W [] s t :=
  ⟨hk, none, hf, .stores (hm ▸ .done _)⟩

/-- The frame of a run whose last act was a read that raised. -/
theorem of_read_error {a : Word} (hk : Keeps W s t) (hm : t.mem = s.mem)
    (hg : (CoreError.invalidAddress a .read).Genuine s.mem) : Frame W [] s (t.latch (.invalidAddress a .read)) :=
  ⟨hk.latch _, some _, rfl, .readRaises a rfl hm rfl hg⟩

/-- The frame of a run that raised nothing and made all its stores. -/
theorem of_stores (hk : Keeps W s t) (hf : t.fault = s.fault) (h : Stores as s.mem t.mem none) : Frame W as s t :=
  ⟨hk, none, hf, .stores h⟩

/-- The frame of a run whose last act was a write that raised. -/
theorem of_write_error {e : CoreError} (hk : Keeps W s t) (h : Stores as s.mem t.mem (some e)) :
    Frame W as s (t.latch e) :=
  ⟨hk.latch _, some _, rfl, .stores h⟩

end Frame

theorem keeps_stepHl {W : List RegName} {s t : State} {d : HlStep} (h : Keeps W s t) (hW : pairNames .hl ⊆ W) :
    Keeps W s (stepHl d t) := h.setPair hW _

/-- Each form writes its own registers and stores to its own addresses. -/
theorem Form.exec_frame (φ : Form) (s : State) : Answers (Frame φ.writes (φ.targets s) s) (φ.exec s) := by
  have keep := Keeps.refl φ.writes s
  cases φ with
  | idle => exact answers_next (.of_same_mem keep rfl rfl)
  | set dst src => exact answers_next (.of_same_mem (keep.setReg List.mem_cons_self _) (by simp) (by simp))
  | setPair p n => exact answers_next (.of_same_mem (keep.setPair (List.Subset.refl _) _) (by simp) (by simp))
  | setSp src => exact answers_next (.of_same_mem (keep.setSp List.mem_cons_self _) rfl rfl)
  | load dst addr =>
    exact answers_load
      (fun v _ => .of_same_mem (keep.setReg List.mem_cons_self v) (by simp) (by simp))
      (fun hg => .of_read_error keep rfl hg)
  | loadStep d =>
    exact answers_readThen
      (fun v _ => answers_next <| .of_same_mem
        (keeps_stepHl (keep.setReg (r := .a) List.mem_cons_self v) (List.subset_cons_self _ _)) rfl rfl)
      (fun hg => .of_read_error keep rfl hg)
  | store addr src =>
    exact answers_store
      (fun m hm => .of_stores (keep.setMem m) rfl (.write hm (.done m)))
      (fun e he hg => .of_write_error keep (.raises he hg))
  | storeStep d =>
    rw [Form.exec]
    refine answers_writeThen (fun m hm => ?_) (fun e he hg => .of_write_error keep (.raises he hg))
    exact answers_next <|
      .of_stores (keeps_stepHl (keep.setMem m) (List.Subset.refl _)) rfl (.write hm (.done m))
  | storeSp n =>
    exact answers_storeWord
      (fun m1 m2 h1 h2 => .of_stores (keep.setMem m2) rfl (.write h1 (.write h2 (.done m2))))
      (fun e he hg => .of_write_error keep (.raises he hg))
      (fun m1 e h1 he hg => .of_write_error (keep.setMem m1) (.write h1 (.raises he hg)))
  | push p =>
    have hsp : RegName.sp ∈ (Form.push p).writes := List.mem_cons_self
    simp only [Form.targets, ← sub_one_sub_one]
    exact answers_push
      (fun m1 m2 h1 h2 => .of_stores ((((keep.setSp hsp _).setMem m1).setSp hsp _).setMem m2) rfl
        (.write h1 (.write h2 (.done m2))))
      (fun e he hg => .of_write_error (keep.setSp hsp _) (.raises he hg))
      (fun m1 e h1 he hg => .of_write_error (((keep.setSp hsp _).setMem m1).setSp hsp _)
        (.write h1 (.raises he hg)))
  | pop p =>
    have hsp : RegName.sp ∈ (Form.pop p).writes := List.mem_append_right _ List.mem_cons_self
    exact answers_pop
      (fun lo hi _ _ => .of_same_mem (((keep.setSp hsp _).setSp hsp _).setPair (List.subset_append_left _ _) _)
        (by simp) (by simp))
      (fun hg => .of_read_error keep rfl hg)
      (fun lo _ hg => .of_read_error (keep.setSp hsp _) rfl hg)

/-- All an instruction can do: it writes only the registers R28 lists, stores only to its `targets`, and latches what
raised. -/
theorem exec_frame {i : Instr} {s t : State} (h : exec i s = .next t) : Frame (writes i) (targets s i) s t := by
  rw [exec_eq_form] at h
  rw [writes_eq_form, targets_eq_form]
  exact ((formOf i).exec_frame s).of_next h

end Sys2Proof.Proofs
end

section
/-!
SUPPORT. What every step keeps: the invariant, `pc` but for the fetches, the flag byte but for POP AF.
-/

namespace Sys2Proof.Proofs

open Sys2Proof.Machine Sys2Proof.Claims

/-! ### The invariant -/

/-- A masked flag byte, and one left alone, has a zero low nibble when the old one has (spec/10_state.md R22). -/
theorem Keeps.flags_low_nibble {W : List RegName} {s t : State} (h : Keeps W s t) (hs : s.f &&& 0x0F#8 = 0#8) :
    t.f &&& 0x0F#8 = 0#8 := by
  rcases h.flags with hf | ⟨v, hf⟩
  · rw [hf, hs]
  · rw [hf, maskFlags_low_nibble]

theorem inv_of_unfaulted {s : State} (hf : s.f &&& 0x0F#8 = 0#8) (hm : s.mem.wf = true) (hl : s.fault = none) :
    s.Inv := ⟨hf, hm, by simp [hl]⟩

/-- Executing an instruction on an unfaulted core keeps the invariant. -/
theorem exec_inv {i : Instr} {s t : State} (hs : s.Inv) (hl : s.fault = none) (h : exec i s = .next t) : t.Inv := by
  obtain ⟨hkeep, raised, hfault, hacc⟩ := exec_frame h
  refine ⟨hkeep.flags_low_nibble hs.flags_low_nibble, hacc.wf hs.memory_wf, fun e he => ?_⟩
  have hr : raised = some e := by rw [← he, hfault, hl, Option.or_none]
  exact Accesses.genuine (hr ▸ hacc)

/-- A failed fetch raises a genuine error. -/
theorem fetchInstr_error_genuine {s t : State} {e : CoreError} (h : s.fetchInstr = .error (e, t)) :
    e.Genuine s.mem := by
  obtain ⟨k, -, -, hread | ⟨op, rfl, hop⟩⟩ := State.fetchInstr_error_frame h
  · exact (Memory.read_error hread).2
  · exact hop

theorem setPc_inv {s : State} (hs : s.Inv) (v : Word) : (s.setPc v).Inv :=
  ⟨hs.flags_low_nibble, hs.memory_wf, hs.latch_genuine⟩

theorem latch_inv {s : State} {e : CoreError} (hs : s.Inv) (he : e.Genuine s.mem) : (s.latch e).Inv :=
  ⟨hs.flags_low_nibble, hs.memory_wf, fun _ h => Option.some.inj h ▸ he⟩

/-- Settles O25: `exec_frame` keeps it past the fetch, and a failed fetch raises a genuine error. -/
theorem everyStepKeepsTheInvariant : Obligations.EveryStepKeepsTheInvariant := by
  intro s t hs h
  obtain ⟨hl, ⟨i, u, hfetch, hexec⟩ | ⟨e, u, hfetch, rfl⟩⟩ := step_cases h
  · obtain ⟨-, rfl⟩ := State.fetchInstr_ok_frame hfetch
    have hu := setPc_inv hs (s.pc + BitVec.ofNat 16 i.length)
    exact exec_inv hu hl hexec
  · have he := fetchInstr_error_genuine hfetch
    obtain ⟨k, -, rfl, -⟩ := State.fetchInstr_error_frame hfetch
    exact latch_inv (setPc_inv hs _) he

theorem powerOn_inv (ram : InitRam) : (State.powerOn ram).Inv :=
  inv_of_unfaulted (by simp [State.powerOn]) (State.powerOn_mem_wf ram) rfl

/-- Settles O24: the canonical form comes from the laws of the memory, and the latch is clear wherever a genuine error
is asked for. -/
theorem invariantHoldsAtPowerOn : Obligations.InvariantHoldsAtPowerOn := by
  refine ⟨powerOn_inv, powerOn_inv _, fun s image hs hl => ?_, fun s image hs => ?_, fun s ram hs => ?_⟩
  · exact inv_of_unfaulted hs.flags_low_nibble (State.loadImage_mem_wf image hs.memory_wf) hl
  · exact ⟨rfl, hs.flags_low_nibble, State.loadImage_mem_wf image hs.memory_wf⟩
  · exact inv_of_unfaulted (powerOn_inv ram).flags_low_nibble (State.hostReset_mem_wf ram hs.memory_wf) rfl

/-! ### `pc` -/

theorem length_le_three (i : Instr) : i.length ≤ 3 := by
  unfold Instr.length
  cases i.format <;> simp [Format.operandBytes]

/-- Settles O22: the fetch alone moves `pc`, by the length of what stands there, or by at most two before it fails. -/
theorem pcMovesOnlyBySequentialFetch : Obligations.PcMovesOnlyBySequentialFetch := by
  intro s t h
  obtain ⟨-, ⟨i, u, hfetch, hexec⟩ | ⟨e, u, hfetch, rfl⟩⟩ := step_cases h
  · obtain ⟨hstands, rfl⟩ := State.fetchInstr_ok_frame hfetch
    have hpc : t.pc = s.pc + BitVec.ofNat 16 i.length := (exec_frame hexec).keeps.pc
    exact ⟨⟨i.length, length_le_three i, hpc⟩, fun _ => ⟨i, hstands, hpc⟩⟩
  · obtain ⟨k, hk, rfl, -⟩ := State.fetchInstr_error_frame hfetch
    exact ⟨⟨k, by omega, rfl⟩, fun hclear => by simp at hclear⟩

/-! ### The flag byte -/

/-- R28 lists `f` as written by POP AF alone. -/
theorem f_mem_writes_iff (i : Instr) : RegName.f ∈ writes i ↔ i = .popAf := by
  cases i <;> simp [writes]

theorem exec_f_of_ne_popAf {i : Instr} {s t : State} (hi : i ≠ .popAf) (h : exec i s = .next t) : t.f = s.f :=
  f_eq_of_valueOf ((exec_frame h).keeps.regs .f (mt (f_mem_writes_iff i).mp hi))

/-- A step that changes `f` has the opcode of POP AF at `pc`. -/
theorem read_pc_of_step_changes_f {s t : State} (h : step s = .next t) (hf : t.f ≠ s.f) :
    s.mem.read s.pc = .ok 0xF1#8 := by
  obtain ⟨-, ⟨i, u, hfetch, hexec⟩ | ⟨e, u, hfetch, rfl⟩⟩ := step_cases h
  · obtain ⟨hstands, rfl⟩ := State.fetchInstr_ok_frame hfetch
    have hi : i = .popAf := Classical.byContradiction fun hi =>
      hf ((exec_f_of_ne_popAf hi hexec).trans (State.setPc_f _ _))
    subst hi
    exact (holdsAt_cons.mp hstands).1
  · obtain ⟨k, -, rfl, -⟩ := State.fetchInstr_error_frame hfetch
    exact absurd rfl hf

/-- A step keeps the low nibble of `f` zero, whatever the rest of the state. -/
theorem step_flags_low_nibble {s t : State} (h : step s = .next t) (hs : s.f &&& 0x0F#8 = 0#8) :
    t.f &&& 0x0F#8 = 0#8 := by
  obtain ⟨-, ⟨i, u, hfetch, hexec⟩ | ⟨e, u, hfetch, rfl⟩⟩ := step_cases h
  · obtain ⟨-, rfl⟩ := State.fetchInstr_ok_frame hfetch
    exact (exec_frame hexec).keeps.flags_low_nibble hs
  · obtain ⟨k, -, rfl, -⟩ := State.fetchInstr_error_frame hfetch
    exact hs

/-- Settles O26: `f` is among the written registers of POP AF alone, and POP AF masks what it writes. -/
theorem flagByteChangesOnlyByPopAf : Obligations.FlagByteChangesOnlyByPopAf :=
  ⟨fun ram => ⟨rfl, (powerOn_inv ram).flags_low_nibble⟩,
    fun _ _ h hs => step_flags_low_nibble h hs,
    fun _ _ h hf => read_pc_of_step_changes_f h hf,
    fun _ _ _ hi h => exec_f_of_ne_popAf hi h,
    fun s v => by simp [maskFlags_low_nibble]⟩

end Sys2Proof.Proofs
end

section
/-!
SUPPORT. The frames of the instructions by what they store, read off `exec_frame`.
-/

namespace Sys2Proof.Proofs

open Sys2Proof.Machine Sys2Proof.Claims

/-! ### Which addresses name one byte -/

/-- The address of a store's first byte, the cartridge's counted from 0 (spec/20_memory.md R41, R42). -/
def storeBase : StoreId → Nat
  | .cart => 0
  | .vram => 0x8000
  | .wram => 0xC000
  | .oam => 0xFE00
  | .hram => 0xFF80

/-- A routed address names the byte at its store's base plus the index; the echo range names WRAM (R45). -/
theorem unEcho_of_route {kind : AccessKind} {addr : Word} {id : StoreId} {k : Nat}
    (h : route kind addr = .cell id k) : unEcho addr = storeBase id + k := by
  unfold route at h
  simp only at h
  repeat' split at h
  all_goals simp only [Target.cell.injEq, reduceCtorEq] at h
  all_goals obtain ⟨rfl, rfl⟩ := h
  all_goals
    simp only [unEcho, storeBase]
    split <;> omega

/-- An address that names another byte reads as before the stores. -/
theorem Stores.read_of_unEcho_ne {as : List Word} {m n : Memory} {raised : Option CoreError} {x : Word}
    (h : Stores as m n raised) (hx : ∀ a ∈ as, unEcho x ≠ unEcho a) : n.read x = m.read x := by
  induction h with
  | done | raises => rfl
  | write hw _ ih =>
    rw [ih fun a ha => hx a (List.mem_cons_of_mem _ ha)]
    refine Memory.read_write_of_route_ne hw fun hr => hx _ List.mem_cons_self ?_
    obtain ⟨id, k, hcell, -, -⟩ := Memory.write_ok hw
    rw [unEcho_of_route (hr.trans hcell), unEcho_of_route hcell]

theorem Stores.of_nil {m n : Memory} {raised : Option CoreError} (h : Stores [] m n raised) :
    n = m ∧ raised = none := by
  cases h
  exact ⟨rfl, rfl⟩

/-- A single store is made, or raises and leaves memory alone. -/
theorem Stores.of_singleton {a : Word} {m n : Memory} {raised : Option CoreError} (h : Stores [a] m n raised) :
    raised = none ∨
      (n = m ∧ (raised = some (.invalidAddress a .write) ∨ raised = some (.prohibitedAccess a))) := by
  cases h with
  | write _ hrest => exact .inl hrest.of_nil.2
  | raises he _ => exact .inr ⟨rfl, he.imp (congrArg some) (congrArg some)⟩

/-! ### The three frames -/

/-- Settles O27: with no address to store to, memory is as before and only a read can raise. -/
theorem frameOfFormsThatStoreNothing : Obligations.FrameOfFormsThatStoreNothing := by
  intro i s t htargets h
  obtain ⟨hkeep, raised, hfault, hacc⟩ := exec_frame h
  rw [htargets] at hacc
  cases hacc with
  | stores hst =>
    obtain ⟨hmem, rfl⟩ := hst.of_nil
    exact ⟨hkeep.regs, hkeep.pc, hmem, fun x => by rw [hmem], .inl hfault⟩
  | readRaises a _ hmem hr =>
    subst hr
    exact ⟨hkeep.regs, hkeep.pc, hmem, fun x => by rw [hmem], .inr ⟨a, hfault⟩⟩

/-- Settles O28: the one store is made and nothing is raised, or it raises and memory is as before. -/
theorem frameOfOneByteStores : Obligations.FrameOfOneByteStores := by
  intro i s t a htargets h
  obtain ⟨hkeep, raised, hfault, hacc⟩ := exec_frame h
  rw [htargets] at hacc
  refine ⟨hkeep.regs, hkeep.pc, hacc.cartLen, ?_⟩
  cases hacc with
  | readRaises _ has => cases has
  | stores hst =>
    refine ⟨fun x hx => hst.read_of_unEcho_ne (by simpa using hx), ?_⟩
    obtain rfl | ⟨hmem, rfl | rfl⟩ := hst.of_singleton
    · exact .inl hfault
    · exact .inr ⟨hmem, .inl hfault⟩
    · exact .inr ⟨hmem, .inr hfault⟩

/-- Settles O29: the stores up to the first that raises are made, and its error is latched. -/
theorem frameOfTwoByteStores : Obligations.FrameOfTwoByteStores := by
  intro i s t a b htargets h
  obtain ⟨hkeep, raised, hfault, hacc⟩ := exec_frame h
  rw [htargets] at hacc
  refine ⟨hkeep.regs, hkeep.pc, hacc.cartLen, ?_⟩
  cases hacc with
  | readRaises _ has => cases has
  | stores hst =>
    refine ⟨fun x ha hb => hst.read_of_unEcho_ne (by simp [ha, hb]), ?_⟩
    cases raised with
    | none => exact .inl hfault
    | some e =>
      obtain ⟨x, hx, rfl | rfl⟩ := hst.raised_at
      · exact .inr ⟨x, by simpa using hx, .inl hfault⟩
      · exact .inr ⟨x, by simpa using hx, .inr hfault⟩

end Sys2Proof.Proofs
end

section
/-!
SUPPORT. Registers that are not read have no influence: running with another value in one commutes with that other
value, unless the instruction overwrites it.
-/

namespace Sys2Proof.Proofs

open Sys2Proof.Machine Sys2Proof.Claims

variable (s : State) (q : RegName) (v : Word)

/-! ### `withReg` -/

@[simp] theorem withReg_a : (withReg s q v).a = if q = .a then lo8 v else s.a := by cases q <;> rfl

@[simp] theorem withReg_b : (withReg s q v).b = if q = .b then lo8 v else s.b := by cases q <;> rfl

@[simp] theorem withReg_c : (withReg s q v).c = if q = .c then lo8 v else s.c := by cases q <;> rfl

@[simp] theorem withReg_d : (withReg s q v).d = if q = .d then lo8 v else s.d := by cases q <;> rfl

@[simp] theorem withReg_e : (withReg s q v).e = if q = .e then lo8 v else s.e := by cases q <;> rfl

@[simp] theorem withReg_h : (withReg s q v).h = if q = .h then lo8 v else s.h := by cases q <;> rfl

@[simp] theorem withReg_l : (withReg s q v).l = if q = .l then lo8 v else s.l := by cases q <;> rfl

@[simp] theorem withReg_f : (withReg s q v).f = if q = .f then lo8 v else s.f := by cases q <;> rfl

@[simp] theorem withReg_sp : (withReg s q v).sp = if q = .sp then v else s.sp := by cases q <;> rfl

@[simp] theorem withReg_pc : (withReg s q v).pc = s.pc := by cases q <;> rfl

@[simp] theorem withReg_fault : (withReg s q v).fault = s.fault := by cases q <;> rfl

@[simp] theorem withReg_mem : (withReg s q v).mem = s.mem := by cases q <;> rfl

theorem valueOf_withReg_ne {r : RegName} (h : r ≠ q) : valueOf (withReg s q v) r = valueOf s r := by
  cases r <;> simp [valueOf, h.symm]

/-- What a register ends as after it is given another value depends on that value alone. -/
theorem valueOf_withReg_self (t : State) : valueOf (withReg s q v) q = valueOf (withReg t q v) q := by
  cases q <;> rfl

theorem setReg_withReg (r : Reg8) (x : Byte) :
    (withReg s q v).setReg r x = if q = regName r then s.setReg r x else withReg (s.setReg r x) q v := by
  cases q <;> cases r <;> rfl

theorem setPair_withReg (p : Pair) (x : Word) :
    (withReg s q v).setPair p x = if q ∈ pairNames p then s.setPair p x else withReg (s.setPair p x) q v := by
  cases q <;> cases p <;> rfl

theorem setSp_withReg (x : Word) :
    (withReg s q v).setSp x = if q = .sp then s.setSp x else withReg (s.setSp x) q v := by
  cases q <;> rfl

@[simp] theorem setMem_withReg (m : Memory) : (withReg s q v).setMem m = withReg (s.setMem m) q v := by
  cases q <;> rfl

@[simp] theorem latch_withReg (e : CoreError) : (withReg s q v).latch e = withReg (s.latch e) q v := by
  cases q <;> rfl

/-! ### Operands that do not read the register -/

variable {s q v}

theorem reg_withReg {r : Reg8} (h : q ≠ regName r) : (withReg s q v).reg r = s.reg r := by
  cases r <;> simp_all [State.reg, regName]

theorem pair_withReg {p : Pair} (h : q ∉ pairNames p) : (withReg s q v).pair p = s.pair p := by
  cases p <;> simp_all [State.pair, pairNames]

theorem Operand8.value_withReg {o : Operand8} (h : q ∉ o.reads) : o.value (withReg s q v) = o.value s := by
  cases o with
  | reg r => exact reg_withReg (List.ne_of_not_mem_cons h)
  | imm n => rfl

theorem Operand16.value_withReg {o : Operand16} (h : q ∉ o.reads) : o.value (withReg s q v) = o.value s := by
  cases o with
  | pair p => exact pair_withReg h
  | port o => exact congrArg portAddress (Operand8.value_withReg h)
  | imm n => rfl

theorem sp_withReg (h : q ≠ .sp) : (withReg s q v).sp = s.sp := by simp [h]

/-! ### Running with another value in the register -/

variable {W : List RegName} {t : State}

/-- What the answer `t` becomes when `q` began at `v`: `t` itself if the run overwrote `q`, else `t` with `v` there. -/
def carry (W : List RegName) (q : RegName) (v : Word) (t : State) : State :=
  if q ∈ W ∧ t.fault = none then t else withReg t q v

theorem carry_of_mem (h : q ∈ W) (hf : t.fault = none) : carry W q v t = t := if_pos ⟨h, hf⟩

theorem carry_of_notMem (h : q ∉ W) : carry W q v t = withReg t q v := if_neg fun hW => h hW.1

theorem carry_latch (e : CoreError) : carry W q v (t.latch e) = withReg (t.latch e) q v := by simp [carry]

/-- One run answers a next state, and the other answers the same with `v` carried along. -/
def Carries (W : List RegName) (q : RegName) (v : Word) (r r' : Result) : Prop :=
  ∃ t, r = .next t ∧ r' = .next (carry W q v t)

theorem carries_next {t' : State} (h : t' = carry W q v t) : Carries W q v (.next t) (.next t') :=
  ⟨t, rfl, by rw [h]⟩

theorem carries_raise (e : CoreError) : Carries W q v (s.raise e) ((withReg s q v).raise e) :=
  carries_next (by rw [carry_latch, latch_withReg])

theorem carries_readThen {addr : Word} {k k' : Byte → Result} (hok : ∀ x, Carries W q v (k x) (k' x)) :
    Carries W q v (s.readThen addr k) ((withReg s q v).readThen addr k') := by
  cases h : s.mem.read addr with
  | ok x =>
    rw [State.readThen_ok k h, State.readThen_ok k' (by simpa using h)]
    exact hok x
  | error e =>
    rw [State.readThen_error k h, State.readThen_error k' (by simpa using h)]
    exact carries_raise e

theorem carries_writeThen {addr : Word} {x : Byte} {k k' : State → Result}
    (hok : ∀ m, Carries W q v (k (s.setMem m)) (k' (withReg (s.setMem m) q v))) :
    Carries W q v (s.writeThen addr x k) ((withReg s q v).writeThen addr x k') := by
  cases h : s.mem.write addr x with
  | ok m =>
    rw [State.writeThen_ok k h, State.writeThen_ok k' (by simpa using h), setMem_withReg]
    exact hok m
  | error e =>
    rw [State.writeThen_error k h, State.writeThen_error k' (by simpa using h)]
    exact carries_raise e

theorem carries_store (hq : q ∉ W) {addr : Word} {x : Byte} :
    Carries W q v (s.store addr x) ((withReg s q v).store addr x) :=
  carries_writeThen fun _ => carries_next (carry_of_notMem hq).symm

theorem setReg_eq_carry (hf : s.fault = none) (r : Reg8) (x : Byte) :
    (withReg s q v).setReg r x = carry [regName r] q v (s.setReg r x) := by
  simp [setReg_withReg, carry, hf]

theorem setPair_eq_carry (hf : s.fault = none) (p : Pair) (x : Word) :
    (withReg s q v).setPair p x = carry (pairNames p) q v (s.setPair p x) := by
  simp [setPair_withReg, carry, hf]

theorem setSp_eq_carry (hf : s.fault = none) (x : Word) :
    (withReg s q v).setSp x = carry [.sp] q v (s.setSp x) := by
  simp [setSp_withReg, carry, hf]

theorem stepHl_withReg {d : HlStep} (h : q ∉ pairNames .hl) :
    stepHl d (withReg s q v) = withReg (stepHl d s) q v := by
  rw [stepHl, pair_withReg h, setPair_withReg, if_neg h, stepHl]

/-- The access of `LD A,(HL+)` and `LD A,(HL-)` overwrites `a`, and steps `hl`, which it has read. -/
theorem stepHl_setReg_a_eq_carry (hf : s.fault = none) {d : HlStep} (h : q ∉ pairNames .hl) (x : Byte) :
    stepHl d ((withReg s q v).setReg .a x) = carry [.a, .h, .l] q v (stepHl d (s.setReg .a x)) := by
  by_cases hq : q = .a
  · subst hq
    rw [setReg_withReg, if_pos (show RegName.a = regName .a from rfl), carry_of_mem List.mem_cons_self]
    simpa [stepHl] using hf
  · rw [setReg_withReg, if_neg (show q ≠ regName .a from hq), stepHl_withReg h,
      carry_of_notMem (by simpa [pairNames, hq] using h)]

/-- A form that does not read `q` carries another value there along, or overwrites it. -/
theorem Form.exec_withReg {φ : Form} (hq : q ∉ φ.reads) (hf : s.fault = none) :
    Carries φ.writes q v (φ.exec s) (φ.exec (withReg s q v)) := by
  cases φ with
  | idle => exact carries_next (carry_of_notMem List.not_mem_nil).symm
  | set dst src =>
    simp only [Form.exec, src.value_withReg hq]
    exact carries_next (setReg_eq_carry hf _ _)
  | setPair p n => exact carries_next (setPair_eq_carry hf _ _)
  | setSp src =>
    simp only [Form.exec, src.value_withReg hq]
    exact carries_next (setSp_eq_carry hf _)
  | load dst addr =>
    simp only [Form.exec, addr.value_withReg hq]
    exact carries_readThen fun x => carries_next (setReg_eq_carry hf _ _)
  | loadStep d =>
    simp only [Form.exec, pair_withReg (p := .hl) hq]
    exact carries_readThen fun x => carries_next (stepHl_setReg_a_eq_carry hf hq x)
  | store addr src =>
    simp only [Form.reads, List.mem_append, not_or] at hq
    simp only [Form.exec, addr.value_withReg hq.2, src.value_withReg hq.1]
    exact carries_store List.not_mem_nil
  | storeStep d =>
    obtain ⟨ha, hhl⟩ : q ≠ .a ∧ q ∉ pairNames .hl := by simpa [Form.reads, pairNames] using hq
    simp only [Form.exec, pair_withReg hhl, withReg_a, if_neg ha]
    exact carries_writeThen fun m => carries_next (by rw [stepHl_withReg hhl, carry_of_notMem]; exact hhl)
  | storeSp n =>
    simp only [Form.exec, sp_withReg (List.ne_of_not_mem_cons hq)]
    exact carries_writeThen fun m => carries_store List.not_mem_nil
  | push p =>
    simp only [Form.reads, List.mem_append, List.mem_singleton, not_or] at hq
    obtain ⟨hp, hsp⟩ := hq
    simp only [Form.exec, State.push, pair_withReg hp, setSp_withReg, sp_withReg hsp, if_neg hsp]
    refine carries_writeThen fun m => ?_
    simp only [setSp_withReg, sp_withReg hsp, if_neg hsp]
    exact carries_store (by simpa [Form.writes] using hsp)
  | pop p =>
    have hsp : q ≠ .sp := List.ne_of_not_mem_cons hq
    simp only [Form.exec, State.pop, sp_withReg hsp, setSp_withReg, if_neg hsp]
    refine carries_readThen fun lo => carries_readThen fun hi => carries_next ?_
    rw [setPair_eq_carry (by simpa using hf)]
    simp [carry, Form.writes, hsp]

/-- An instruction that does not read `q` carries another value there along, or overwrites it. -/
theorem exec_withReg {i : Instr} (hq : q ∉ reads i) (hf : s.fault = none) (h : exec i s = .next t) :
    exec i (withReg s q v) = .next (carry (writes i) q v t) := by
  rw [mem_reads_iff_form] at hq
  rw [exec_eq_form] at h ⊢
  obtain ⟨t', ht, ht'⟩ := Form.exec_withReg (v := v) hq hf
  cases h.symm.trans ht
  rw [ht', writes_eq_form]

/-- Settles O30: the other run ends in `carry` of the one's end, which differs from it in the register at most. -/
theorem outcomeDependsOnReadRegistersAlone : Obligations.OutcomeDependsOnReadRegistersAlone := by
  intro i s t q v hq hf h
  refine ⟨_, exec_withReg hq hf h, ?_⟩
  by_cases hover : q ∈ writes i ∧ t.fault = none
  · rw [carry_of_mem hover.1 hover.2]
    exact ⟨rfl, rfl, rfl, fun _ _ => rfl, fun _ _ => rfl, fun hnot => absurd hover.1 hnot⟩
  · rw [carry, if_neg hover]
    exact ⟨withReg_fault .., withReg_mem .., withReg_pc .., fun r hr => valueOf_withReg_ne _ _ _ hr,
      fun hmem hclear => absurd ⟨hmem, hclear⟩ hover, fun _ => valueOf_withReg_self ..⟩

end Sys2Proof.Proofs
end

section
/-!
SUPPORT. The state element by element: canonical memories are their reads, the pair views, and power-on.
-/

namespace Sys2Proof.Proofs

open Sys2Proof.Machine Sys2Proof.Claims

/-! ### Memory as data -/

/-- A canonical store lists no index at or above its size. -/
theorem get_of_size_le {size lo k : Nat} {m : Store} (h : Store.wfFrom size lo m = true) (hk : size ≤ k) :
    m.get k = unlistedByte := by
  induction m generalizing lo with
  | nil => rfl
  | cons cell rest ih =>
    obtain ⟨j, w⟩ := cell
    simp only [Store.wfFrom, Bool.and_eq_true, decide_eq_true_eq] at h
    obtain ⟨⟨⟨-, hj⟩, -⟩, hrest⟩ := h
    simp only [Store.get, if_neg (show k ≠ j by omega)]
    exact ih hrest

/-- Settles O12: past its size a canonical store reads as nothing listed, so the stores read alike everywhere. -/
theorem memoryDataIsItsReads : Obligations.MemoryDataIsItsReads := by
  intro m n hm hn hlen h
  have hsize : ∀ id, n.size id = m.size id := fun id => by cases id <;> simp [Memory.size, hlen]
  refine Memory.ext_wf hm hn hlen fun id k => ?_
  by_cases hk : k < m.size id
  · exact h id k hk
  · have hge : m.size id ≤ k := Nat.le_of_not_lt hk
    rw [get_of_size_le ((Memory.wf_iff m).mp hm id) hge,
      get_of_size_le ((Memory.wf_iff n).mp hn id) (hsize id ▸ hge)]

/-! ### Pair views -/

theorem pair_setPair_of_ne_af (s : State) {p : Pair} (hp : p ≠ .af) (v : Word) : (s.setPair p v).pair p = v := by
  cases p with
  | af => exact absurd rfl hp
  | bc | de | hl => exact cat16_hi8_lo8 v

/-- Masking the low byte of a value clears its bits 3:0. -/
theorem cat16_maskFlags (v : Word) : cat16 (hi8 v) (maskFlags (lo8 v)) = v &&& 0xFFF0#16 :=
  calc cat16 (hi8 v) (maskFlags (lo8 v))
    _ = cat16 (hi8 v &&& BitVec.allOnes 8) (lo8 v &&& 0xF0#8) := by rw [BitVec.and_allOnes, maskFlags]
    _ = cat16 (hi8 v) (lo8 v) &&& cat16 (BitVec.allOnes 8) 0xF0#8 := BitVec.and_append.symm
    _ = v &&& 0xFFF0#16 := by rw [cat16_hi8_lo8]; rfl

/-- Settles O6: each setter splits its value, and composing the fields again gives it, masked for `af`. -/
theorem pairSettersSplitAndMask : Obligations.PairSettersSplitAndMask := fun s v =>
  ⟨rfl, rfl, rfl, rfl, rfl, rfl, rfl, rfl, pair_setPair_of_ne_af s (by decide) v,
    pair_setPair_of_ne_af s (by decide) v, pair_setPair_of_ne_af s (by decide) v, cat16_maskFlags v⟩

/-- Settles O7: the steps add and subtract one on the pair view, and `BitVec` arithmetic wraps. -/
theorem hlStepsWrapAtSixteenBits : Obligations.HlStepsWrapAtSixteenBits := by
  intro s
  simp only [State.pair_hl_incHl, State.pair_hl_decHl]
  refine ⟨by rw [BitVec.toNat_add]; rfl, ?_, fun h => by rw [h]; rfl, fun h => by rw [h]; rfl, rfl, rfl⟩
  rw [BitVec.toNat_sub]
  have : (1#16).toNat = 1 := rfl
  omega

/-! ### Power-on -/

theorem powerOn_pairs (ram : InitRam) :
    (State.powerOn ram).pair .af = 0x01B0#16 ∧ (State.powerOn ram).pair .bc = 0x0013#16 ∧
      (State.powerOn ram).pair .de = 0x00D8#16 ∧ (State.powerOn ram).pair .hl = 0x014D#16 := by
  simp only [State.pair, State.powerOn]
  decide

theorem powerOn_flags (ram : InitRam) :
    (State.powerOn ram).flagZ = true ∧ (State.powerOn ram).flagN = false ∧ (State.powerOn ram).flagH = true ∧
      (State.powerOn ram).flagC = true := by
  simp only [State.flagZ, State.flagN, State.flagH, State.flagC, State.powerOn]
  decide

/-- A byte of a draw that fits its store stands in the store. -/
theorem get_ofBytes_take {bytes : List Byte} {n k : Nat} {v : Byte} (hk : k < n) (hv : bytes[k]? = some v) :
    (Store.ofBytes (bytes.take n)).get k = v := by
  rw [Store.get_ofBytes, List.getD_eq_getElem?_getD, List.getElem?_take_of_lt hk, hv]
  rfl

/-- The address at an offset from a store's base routes to that index (spec/20_memory.md R41). -/
theorem route_of_storeBase {m : Memory} {kind : AccessKind} {id : StoreId} {k : Nat} {addr : Word} (hid : id ≠ .cart)
    (haddr : addr.toNat = storeBase id + k) (hk : k < m.size id) : route kind addr = .cell id k := by
  cases id with
  | cart => exact absurd rfl hid
  | vram =>
    simp only [storeBase, Memory.size, Config.vramSize] at haddr hk
    rw [route_vram kind (by omega) (by omega), haddr, Nat.add_sub_cancel_left]
  | wram =>
    simp only [storeBase, Memory.size, Config.wramSize] at haddr hk
    rw [route_wram kind (by omega) (by omega), haddr, Nat.add_sub_cancel_left]
  | oam =>
    simp only [storeBase, Memory.size, Config.oamSize] at haddr hk
    rw [route_oam kind (by omega) (by omega), haddr, Nat.add_sub_cancel_left]
  | hram =>
    simp only [storeBase, Memory.size, Config.hramSize] at haddr hk
    rw [route_hram kind (by omega) (by omega), haddr, Nat.add_sub_cancel_left]

theorem toNat_add_ofNat {base : Word} {k : Nat} (h : base.toNat + k < 0x10000) :
    (base + BitVec.ofNat 16 k).toNat = base.toNat + k := by
  rw [BitVec.toNat_add, BitVec.toNat_ofNat]
  omega

/-- A RAM store stands from its base on. -/
theorem read_from_storeBase {m : Memory} {id : StoreId} {k : Nat} {base : Word} (hid : id ≠ .cart)
    (hbase : base.toNat = storeBase id) (hk : k < m.size id) :
    m.read (base + BitVec.ofNat 16 k) = .ok ((m.store id).get k) := by
  have hfits : base.toNat + k < 0x10000 := by
    rw [hbase]
    cases id
    · exact absurd rfl hid
    all_goals
      simp only [Memory.size, Config.vramSize, Config.wramSize, Config.oamSize, Config.hramSize] at hk
      simp only [storeBase]
      omega
  exact Memory.read_of_route (route_of_storeBase hid (by rw [toNat_add_ofNat hfits, hbase]) hk) hk

/-- Settles O1: each RAM store stands from its base on and holds its draw. -/
theorem powerOnStateForEveryDraw : Obligations.PowerOnStateForEveryDraw := by
  intro ram
  refine ⟨⟨rfl, rfl, rfl, rfl, rfl, rfl, rfl, rfl, rfl, rfl, rfl⟩, powerOn_pairs ram, powerOn_flags ram,
    ⟨rfl, rfl⟩, fun k hk v hv => ?_, fun k hk v hv => ?_, fun k hk v hv => ?_, fun k hk v hv => ?_, ⟨_, rfl⟩⟩
  · rw [read_from_storeBase (id := .vram) (by decide) rfl hk]
    exact congrArg Except.ok (get_ofBytes_take hk hv)
  · rw [read_from_storeBase (id := .wram) (by decide) rfl hk]
    exact congrArg Except.ok (get_ofBytes_take hk hv)
  · rw [read_from_storeBase (id := .oam) (by decide) rfl hk]
    exact congrArg Except.ok (get_ofBytes_take hk hv)
  · rw [read_from_storeBase (id := .hram) (by decide) rfl hk]
    exact congrArg Except.ok (get_ofBytes_take hk hv)

end Sys2Proof.Proofs
end

section
/-!
SUPPORT. Accesses by address: the region table for reads and writes, and the echo range that reads WRAM.
-/

namespace Sys2Proof.Proofs

open Sys2Proof.Machine Sys2Proof.Claims

/-! ### The two ranges the table gives together -/

theorem route_cart (kind : AccessKind) {addr : Word}
    (h : addr.toNat < 0x8000 ∨ (0xA000 ≤ addr.toNat ∧ addr.toNat < 0xC000)) :
    route kind addr = .cell .cart addr.toNat :=
  h.elim (route_rom kind) fun ⟨hlo, hhi⟩ => route_cartRam kind hlo hhi

theorem route_absent (kind : AccessKind) {addr : Word}
    (h : (0xFEA0 ≤ addr.toNat ∧ addr.toNat < 0xFF80) ∨ addr.toNat = 0xFFFF) : route kind addr = .unmapped :=
  h.elim (fun ⟨hlo, hhi⟩ => route_io kind hlo hhi) (route_last kind)

/-! ### Reading by the table -/

/-- Every byte that the table places in a RAM store can be read. -/
theorem read_of_route_ram {m : Memory} {addr : Word} {id : StoreId} {k : Nat} (h : route .read addr = .cell id k)
    (hid : id ≠ .cart) : m.read addr = .ok ((m.store id).get k) :=
  Memory.read_of_route h (route_index_lt m h hid)

/-- Settles O8: each range reads the cell it routes to. -/
theorem readFollowsTheRegionTable : Obligations.ReadFollowsTheRegionTable := fun _ _ =>
  ⟨fun h => ⟨Memory.read_of_cart_end (route_cart .read h), Memory.read_of_route (route_cart .read h)⟩,
    fun ⟨hlo, hhi⟩ => read_of_route_ram (route_vram .read hlo hhi) (by decide),
    fun ⟨hlo, hhi⟩ => read_of_route_ram (route_wram .read hlo hhi) (by decide),
    fun ⟨hlo, hhi⟩ => read_of_route_ram (route_echo_read hlo hhi) (by decide),
    fun ⟨hlo, hhi⟩ => read_of_route_ram (route_oam .read hlo hhi) (by decide),
    fun ⟨hlo, hhi⟩ => read_of_route_ram (route_hram .read hlo hhi) (by decide),
    fun h => Memory.read_of_unmapped (route_absent .read h)⟩

/-! ### Writing by the table -/

/-- A write of `v` at `addr` succeeds and changes byte `k` of the store `id` alone. -/
def WritesByte (m : Memory) (addr : Word) (v : Byte) (id : StoreId) (k : Nat) : Prop :=
  ∃ m', m.write addr v = .ok m' ∧ m'.cartLen = m.cartLen ∧
    ∀ j q, (m'.store j).get q = if j = id ∧ q = k then v else (m.store j).get q

section
variable {m : Memory} {addr : Word} {id : StoreId} {k : Nat}

/-- Setting a byte of one store changes what that byte reads and nothing else. -/
theorem get_setStore_set (hm : m.wf = true) (v : Byte) (j : StoreId) (q : Nat) :
    ((m.setStore id ((m.store id).set k v)).store j).get q = if j = id ∧ q = k then v else (m.store j).get q := by
  rw [Memory.store_setStore]
  by_cases hj : j = id
  · subst hj
    by_cases hq : q = k
    · subst hq
      simpa using Store.get_set_self v ((Memory.wf_iff m).mp hm j)
    · simpa [hq] using Store.get_set_ne (m.store j) v hq
  · simp [hj]

theorem writesByte_of_route (hm : m.wf = true) (v : Byte) (h : route .write addr = .cell id k) (hk : k < m.size id) :
    WritesByte m addr v id k :=
  ⟨_, Memory.write_of_route v h hk, Memory.cartLen_setStore .., get_setStore_set hm v⟩

theorem writesByte_of_route_ram (hm : m.wf = true) (v : Byte) (h : route .write addr = .cell id k)
    (hid : id ≠ .cart) : WritesByte m addr v id k :=
  writesByte_of_route hm v h (route_index_lt m h hid)

end

/-- Settles O9: each range writes the cell it routes to, and a write to a cell sets that byte alone. -/
theorem writeFollowsTheRegionTable : Obligations.WriteFollowsTheRegionTable := fun _ _ v hm =>
  ⟨fun h => ⟨Memory.write_of_cart_end v (route_cart .write h), writesByte_of_route hm v (route_cart .write h)⟩,
    fun ⟨hlo, hhi⟩ => writesByte_of_route_ram hm v (route_vram .write hlo hhi) (by decide),
    fun ⟨hlo, hhi⟩ => writesByte_of_route_ram hm v (route_wram .write hlo hhi) (by decide),
    fun ⟨hlo, hhi⟩ => Memory.write_of_prohibited v (route_echo_write hlo hhi),
    fun ⟨hlo, hhi⟩ => writesByte_of_route_ram hm v (route_oam .write hlo hhi) (by decide),
    fun ⟨hlo, hhi⟩ => writesByte_of_route_ram hm v (route_hram .write hlo hhi) (by decide),
    fun h => Memory.write_of_unmapped v (route_absent .write h)⟩

/-! ### The echo range -/

/-- Settles O10: both addresses read WRAM at the offset from their base. -/
theorem echoReadsMirrorWorkingMemory : Obligations.EchoReadsMirrorWorkingMemory := by
  intro m k hk
  have hecho : (0xE000#16 + BitVec.ofNat 16 k).toNat = 0xE000 + k := toNat_add_ofNat (show 0xE000 + k < 0x10000 by omega)
  have hread : m.read (0xE000#16 + BitVec.ofNat 16 k) = .ok (m.wram.get k) := by
    rw [read_of_route_ram (route_echo_read (by omega) (by omega)) (by decide), hecho, Nat.add_sub_cancel_left]
    rfl
  have hwram : m.read (0xC000#16 + BitVec.ofNat 16 k) = .ok (m.wram.get k) :=
    read_from_storeBase (id := .wram) (by decide) rfl (by simp only [Memory.size, Config.wramSize]; omega)
  exact ⟨hread, hread.trans hwram.symm⟩

/-- An address is read where the address without its echo is (spec/20_memory.md R45). -/
theorem route_read_unEcho (x : Word) : route .read (BitVec.ofNat 16 (unEcho x)) = route .read x := by
  by_cases hx : 0xE000 ≤ x.toNat ∧ x.toNat < 0xFE00
  · have hn : (BitVec.ofNat 16 (unEcho x)).toNat = x.toNat - 0x2000 := by
      rw [unEcho, if_pos hx, BitVec.toNat_ofNat]
      omega
    rw [route_wram .read (by omega) (by omega), route_echo_read hx.1 hx.2, hn, Nat.sub_sub]
  · rw [unEcho, if_neg hx, BitVec.ofNat_toNat, BitVec.setWidth_eq]

theorem route_read_of_unEcho_eq {x y : Word} (h : unEcho x = unEcho y) : route .read x = route .read y := by
  rw [← route_read_unEcho x, h, route_read_unEcho y]

section
variable {m m' : Memory} {addr x : Word} {v : Byte}

/-- Every address that names the byte written reads it. -/
theorem read_write_of_unEcho_eq (hm : m.wf = true) (h : m.write addr v = .ok m') (hx : unEcho x = unEcho addr) :
    m'.read x = .ok v := by
  obtain ⟨id, k, hcell, -, -⟩ := Memory.write_ok h
  have hread : route .read x = .cell id k := (route_read_of_unEcho_eq hx).trans (route_read_of_write hcell)
  exact Memory.read_write_of_route_eq hm h (hread.trans hcell.symm)

theorem read_write_of_unEcho_ne (h : m.write addr v = .ok m') (hx : unEcho x ≠ unEcho addr) :
    m'.read x = m.read x :=
  (Stores.write h (.done m')).read_of_unEcho_ne (by simpa using hx)

end

/-- Settles O11: whether two addresses name one byte is whether `unEcho` agrees on them. -/
theorem writeThenReadByAddress : Obligations.WriteThenReadByAddress := fun _ _ _ _ hm h =>
  ⟨fun _ hx => read_write_of_unEcho_eq hm h hx, fun _ hx => read_write_of_unEcho_ne h hx⟩

end Sys2Proof.Proofs
end

section
/-!
SUPPORT. The bytes an instruction stores, as `Stores` says where: `exec_storesBytes` is the inversion lemma for a run
that raised nothing.
-/

namespace Sys2Proof.Proofs

open Sys2Proof.Machine Sys2Proof.Claims

/-! ### Stores with their bytes -/

/-- `n` is `m` after the bytes `vs` are written to the addresses `as` in order, none of which raises. -/
inductive StoresBytes : List Word → List Byte → Memory → Memory → Prop where
  | done (m : Memory) : StoresBytes [] [] m m
  | write {a : Word} {v : Byte} {as : List Word} {vs : List Byte} {m m1 n : Memory}
      (h : m.write a v = .ok m1) (rest : StoresBytes as vs m1 n) : StoresBytes (a :: as) (v :: vs) m n

namespace StoresBytes

variable {as : List Word} {vs : List Byte} {m n : Memory}

theorem length_eq (h : StoresBytes as vs m n) : vs.length = as.length := by
  induction h with
  | done => rfl
  | write _ _ ih => exact congrArg (· + 1) ih

theorem stores (h : StoresBytes as vs m n) : Stores as m n none := by
  induction h with
  | done m => exact .done m
  | write hw _ ih => exact .write hw ih

/-- Where no two of the addresses name one byte, each byte stored is read back at every address that names it. -/
theorem read_of_unEcho_eq (h : StoresBytes as vs m n) (hm : m.wf = true)
    (hdistinct : as.Pairwise (unEcho · ≠ unEcho ·)) {k : Nat} {a x : Word} {v : Byte} (ha : as[k]? = some a)
    (hv : vs[k]? = some v) (hx : unEcho x = unEcho a) : n.read x = .ok v := by
  induction h generalizing k with
  | done => simp at ha
  | write hw hrest ih =>
    obtain ⟨hfirst, hothers⟩ := List.pairwise_cons.mp hdistinct
    cases k with
    | zero =>
      cases ha
      cases hv
      have hkept := hrest.stores.read_of_unEcho_ne (x := x) fun b hb => hx ▸ hfirst b hb
      exact hkept.trans (read_write_of_unEcho_eq hm hw hx)
    | succ k => exact ih (Memory.write_wf hm hw) hothers ha hv

end StoresBytes

/-! ### The bytes of a form -/

/-- The bytes a form stores, one for each of its targets. -/
def Form.storedBytes (s : State) : Form → List Byte
  | .store _ src => [src.value s]
  | .storeStep _ => [s.a]
  | .storeSp _ => [lo8 s.sp, hi8 s.sp]
  | .push p => [hi8 (s.pair p), lo8 (s.pair p)]
  | .idle | .set _ _ | .setPair _ _ | .setSp _ | .load _ _ | .loadStep _ | .pop _ => []

theorem storedBytes_eq_form (s : State) (i : Instr) : storedBytes s i = (formOf i).storedBytes s := by
  cases i
  case pushBc | pushDe | pushHl | pushAf => simp [storedBytes, formOf, Form.storedBytes, State.pair]
  all_goals rfl

/-- A raise leaves the latch set, so nothing is claimed of it by what holds with the latch clear. -/
theorem of_latch_unfaulted {s : State} {e : CoreError} {p : Prop} (h : (s.latch e).fault = none) : p :=
  absurd h (Option.some_ne_none e)

/-- A form that raises nothing makes all its stores, each with its byte. -/
theorem Form.exec_storesBytes (φ : Form) (s : State) :
    Answers (fun t => t.fault = none → StoresBytes (φ.targets s) (φ.storedBytes s) s.mem t.mem) (φ.exec s) := by
  cases φ with
  | idle | setSp => exact answers_next fun _ => .done _
  | set | setPair => exact answers_next fun _ => by simpa using .done _
  | load => exact answers_load (fun _ _ _ => by simpa using .done _) (fun _ => of_latch_unfaulted)
  | loadStep =>
    exact answers_readThen (fun _ _ => answers_next fun _ => .done _) (fun _ => of_latch_unfaulted)
  | store => exact answers_store (fun m hm _ => .write hm (.done m)) (fun _ _ _ => of_latch_unfaulted)
  | storeStep =>
    rw [Form.exec]
    refine answers_writeThen (fun m hm => ?_) (fun _ _ _ => of_latch_unfaulted)
    exact answers_next fun _ => .write hm (.done m)
  | storeSp =>
    exact answers_storeWord (fun m1 m2 h1 h2 _ => .write h1 (.write h2 (.done m2)))
      (fun _ _ _ => of_latch_unfaulted) (fun _ _ _ _ _ => of_latch_unfaulted)
  | push =>
    simp only [Form.targets, ← sub_one_sub_one]
    exact answers_push (fun m1 m2 h1 h2 _ => .write h1 (.write h2 (.done m2)))
      (fun _ _ _ => of_latch_unfaulted) (fun _ _ _ _ _ => of_latch_unfaulted)
  | pop =>
    exact answers_pop (fun _ _ _ _ _ => by simpa using .done _) (fun _ => of_latch_unfaulted)
      (fun _ _ _ => of_latch_unfaulted)

/-- An instruction that raises nothing writes its `storedBytes` to its `targets`. -/
theorem exec_storesBytes {i : Instr} {s t : State} (h : exec i s = .next t) (hf : t.fault = none) :
    StoresBytes (targets s i) (storedBytes s i) s.mem t.mem := by
  rw [exec_eq_form] at h
  rw [targets_eq_form, storedBytes_eq_form]
  exact ((formOf i).exec_storesBytes s).of_next h hf

/-! ### The next fetch -/

theorem unEcho_add_one_ne (x : Word) : unEcho x ≠ unEcho (x + 1#16) := by
  have hx : (x + 1#16).toNat = (x.toNat + 1) % 0x10000 := BitVec.toNat_add ..
  simp only [unEcho, hx]
  split <;> split <;> omega

/-- The two bytes of a 16-bit store are neighbours, so they are two bytes. -/
theorem targets_pairwise_unEcho_ne (s : State) (i : Instr) : (targets s i).Pairwise (unEcho · ≠ unEcho ·) := by
  rw [targets_eq_form]
  cases formOf i with
  | storeSp n => simpa [Form.targets] using unEcho_add_one_ne n
  | push =>
    have hnext : s.sp - 2#16 + 1#16 = s.sp - 1#16 := by bv_omega
    simpa [Form.targets, hnext] using (unEcho_add_one_ne (s.sp - 2#16)).symm
  | store | storeStep => exact List.pairwise_singleton _ _
  | idle | set | setPair | setSp | load | loadStep | pop => exact .nil

/-- Settles O58: the stores are read back at every address that names their byte, and a fetch reads at `pc`. -/
theorem storedByteIsTheNextOpcode : Obligations.StoredByteIsTheNextOpcode := by
  intro i s t hm _ h hf
  have hstores := exec_storesBytes h hf
  refine ⟨hstores.length_eq, fun k a v ha hv => ?_⟩
  have hfetch : ∀ x, unEcho x = unEcho a → (t.setPc x).fetchByte = .ok (v, t.setPc (x + 1#16)) := fun x hx =>
    State.fetchByte_ok (s := t.setPc x) <|
      hstores.read_of_unEcho_eq hm (targets_pairwise_unEcho_ne s i) ha hv hx
  have hpc : t.pc = s.pc := (exec_frame h).keeps.pc
  exact ⟨hfetch, fun hx => by simpa [← hpc] using hfetch s.pc hx⟩

end Sys2Proof.Proofs
end

section
/-!
SUPPORT. The cartridge: what a load replaces, and its title.
-/

namespace Sys2Proof.Proofs

open Sys2Proof.Machine Sys2Proof.Claims

/-- A loaded image stands in the cartridge byte by byte. -/
theorem cart_get_loadImage (s : State) {image : List Byte} {k : Nat} {v : Byte} (h : image[k]? = some v) :
    (s.loadImage image).mem.cart.get k = v := by
  rw [State.loadImage, Store.get_ofBytes, List.getD_eq_getElem?_getD, h]
  rfl

@[simp] theorem valueOf_loadImage (s : State) (image : List Byte) (q : RegName) :
    valueOf (s.loadImage image) q = valueOf s q := by
  cases q <;> rfl

/-- Settles O3: the image is read back, and the rest of the state is not touched. -/
theorem loadReplacesOnlyTheCartridge : Obligations.LoadReplacesOnlyTheCartridge := fun s =>
  ⟨fun image => ⟨s.loadImage image, rfl, rfl, fun _ _ h => cart_get_loadImage s h, valueOf_loadImage s image,
    rfl, rfl, rfl, rfl, rfl, rfl⟩, rfl⟩

/-! ### The title -/

section
variable (m : Memory)

theorem length_titleFrom_le (k n : Nat) : (m.titleFrom k n).length ≤ n := by
  induction n generalizing k with
  | zero => exact Nat.le_refl 0
  | succ n ih =>
    rw [Memory.titleFrom]
    split
    · exact Nat.zero_le _
    · exact Nat.succ_le_succ (ih (k + 1))

/-- The title has the bytes of its window, none of them zero. -/
theorem getElem?_titleFrom {k n j : Nat} {v : Byte} (h : (m.titleFrom k n)[j]? = some v) :
    v = m.cart.get (k + j) ∧ v ≠ 0#8 := by
  induction n generalizing k j with
  | zero => simp [Memory.titleFrom] at h
  | succ n ih =>
    rw [Memory.titleFrom] at h
    split at h
    · simp at h
    · next hne =>
      cases j with
      | zero =>
        cases h
        exact ⟨rfl, hne⟩
      | succ j =>
        have := ih (List.getElem?_cons_succ ▸ h)
        rwa [Nat.add_right_comm] at this

/-- A title that does not fill its window ends at a zero byte. -/
theorem titleFrom_ends_at_zero {k n : Nat} (h : (m.titleFrom k n).length < n) :
    m.cart.get (k + (m.titleFrom k n).length) = 0#8 := by
  induction n generalizing k with
  | zero => exact absurd h (Nat.not_lt_zero _)
  | succ n ih =>
    rw [Memory.titleFrom] at h ⊢
    split at h
    · next hzero => simp [hzero]
    · next hne =>
      have := ih (k := k + 1) (Nat.lt_of_succ_lt_succ h)
      rw [if_neg hne, List.length_cons]
      rwa [Nat.add_right_comm] at this

end

/-- Settles O5: the three facts about the title, at the window from 0x134 of 16 bytes. -/
theorem titleStopsAtZeroOrSixteenBytes : Obligations.TitleStopsAtZeroOrSixteenBytes := fun m hlen =>
  ⟨m.titleFrom 0x134 16, if_pos hlen, length_titleFrom_le m _ _, fun _ _ h => getElem?_titleFrom m h,
    titleFrom_ends_at_zero m⟩

end Sys2Proof.Proofs
end

section
/-!
SUPPORT. Decoding, said once as a relation. `Row.Reads` is what a row makes of its operand bytes; `decode_eq_ok_iff`
says that a string decodes exactly when it is an opcode byte with a row, that row's operand bytes, and the rest. The
round trips between `encode` and `decode` and the totality of `decode` follow from it.
-/

namespace Sys2Proof.Proofs

open Sys2Proof.Machine Sys2Proof.Claims

/-! ### What a row makes of its operand bytes -/

/-- The operand bytes a row takes, in stream order, and the instruction it makes of them (spec/30_encoding.md R70,
R73). -/
inductive RowReads : Row → List Byte → Instr → Prop where
  | f0 (i : Instr) : RowReads (.f0 i) [] i
  | f1 (mk : Byte → Instr) (n : Byte) : RowReads (.f1 mk) [n] (mk n)
  | f2 (mk : Word → Instr) (lo hi : Byte) : RowReads (.f2 mk) [lo, hi] (mk (cat16 hi lo))

namespace RowReads

variable {op : Byte} {row : Row} {vs : List Byte} {i : Instr}

/-- A word's own bytes give the word back. -/
theorem f2_bytes (mk : Word → Instr) (n : Word) : RowReads (.f2 mk) [lo8 n, hi8 n] (mk n) := by
  simpa only [cat16_hi8_lo8] using RowReads.f2 mk (lo8 n) (hi8 n)

theorem length_eq (h : RowReads row vs i) : vs.length = row.operandBytes := by cases h <;> rfl

/-- A row makes an instruction of any operand bytes, given as many as it takes. -/
theorem exists_of_length (h : vs.length = row.operandBytes) : ∃ i, RowReads row vs i := by
  cases row with
  | f0 i => exact ⟨i, List.length_eq_zero_iff.mp h ▸ .f0 i⟩
  | f1 mk =>
    obtain ⟨n, rfl⟩ := List.length_eq_one_iff.mp h
    exact ⟨mk n, .f1 mk n⟩
  | f2 mk =>
    match vs, h with
    | [lo, hi], _ => exact ⟨mk (cat16 hi lo), .f2 mk lo hi⟩

/-- What a row makes encodes to the bytes it was made of. -/
theorem encode_eq (h : RowReads row vs i) (hrow : opcodeRow op = some row) : encode i = op :: vs := by
  have henc := opcodeRow_encodes hrow
  cases h with
  | f0 i => exact henc.1
  | f1 mk n => exact (henc n).1
  | f2 mk lo hi => simpa using (henc (cat16 hi lo)).1

end RowReads

/-- Each instruction is what its opcode's row makes of the bytes of its immediate (spec/30_encoding.md R80). -/
theorem opcodeRow_reads (i : Instr) : ∃ row, opcodeRow i.opcode = some row ∧ RowReads row i.imm.bytes i := by
  cases i
  case ldBcN16 n | ldAtA16Sp n | ldDeN16 n | ldHlN16 n | ldSpN16 n | ldAtA16A n | ldAAtA16 n =>
    exact ⟨_, rfl, .f2_bytes _ n⟩
  case ldBN8 n | ldCN8 n | ldDN8 n | ldEN8 n | ldHN8 n | ldLN8 n | ldAtHlN8 n | ldAN8 n | ldhAtA8A n | ldhAAtA8 n =>
    exact ⟨_, rfl, .f1 _ n⟩
  all_goals exact ⟨_, rfl, .f0 _⟩

/-- Every constructor carries the immediate of its own format. -/
theorem instr_wf (i : Instr) : i.wf = true := by cases i <;> rfl

theorem length_encode (i : Instr) : (encode i).length = i.length := by cases i <;> rfl

/-! ### `decode` on each kind of string -/

theorem decode_of_reads {op : Byte} {row : Row} {vs : List Byte} {i : Instr} (hrow : opcodeRow op = some row)
    (h : RowReads row vs i) (rest : List Byte) : decode (op :: vs ++ rest) = .ok (i, rest) := by
  cases h <;> simp [decode, hrow]

theorem decode_of_no_row {op : Byte} (hrow : opcodeRow op = none) (rest : List Byte) :
    decode (op :: rest) = .error (.unsupportedOpcode op) := by
  simp [decode, hrow]

theorem decode_truncated {op : Byte} {row : Row} {rest : List Byte} (hrow : opcodeRow op = some row)
    (h : rest.length < row.operandBytes) : decode (op :: rest) = .error .truncated := by
  cases row with
  | f0 i => exact absurd h (Nat.not_lt_zero _)
  | f1 mk =>
    match rest, h with
    | [], _ => simp [decode, hrow]
  | f2 mk =>
    match rest, h with
    | [], _ => simp [decode, hrow]
    | [_], _ => simp [decode, hrow]

/-- A string with at least its row's operand bytes decodes, to the bytes after them. -/
theorem decode_of_length {op : Byte} {row : Row} {rest : List Byte} (hrow : opcodeRow op = some row)
    (h : row.operandBytes ≤ rest.length) :
    ∃ i, RowReads row (rest.take row.operandBytes) i ∧ decode (op :: rest) = .ok (i, rest.drop row.operandBytes) := by
  obtain ⟨i, hi⟩ := RowReads.exists_of_length (List.length_take_of_le h)
  have hd := decode_of_reads hrow hi (rest.drop row.operandBytes)
  rw [List.cons_append, List.take_append_drop] at hd
  exact ⟨i, hi, hd⟩

theorem decode_eq_ok_iff {bytes rest : List Byte} {i : Instr} :
    decode bytes = .ok (i, rest) ↔
      ∃ op row vs, opcodeRow op = some row ∧ RowReads row vs i ∧ bytes = op :: vs ++ rest := by
  constructor
  · intro h
    cases bytes with
    | nil => cases h
    | cons op tl =>
      cases hrow : opcodeRow op with
      | none => cases (decode_of_no_row hrow tl).symm.trans h
      | some row =>
        rcases Nat.lt_or_ge tl.length row.operandBytes with hlt | hge
        · cases (decode_truncated hrow hlt).symm.trans h
        · obtain ⟨j, hj, hd⟩ := decode_of_length hrow hge
          cases hd.symm.trans h
          exact ⟨op, row, _, hrow, hj, by rw [List.cons_append, List.take_append_drop]⟩
  · rintro ⟨op, row, vs, hrow, hreads, rfl⟩
    exact decode_of_reads hrow hreads rest

/-! ### The round trips -/

/-- Settles O13: the row of the opcode byte makes the instruction again from its immediate's bytes. -/
theorem decodeOfEncode : Obligations.DecodeOfEncode := by
  intro i rest _
  obtain ⟨row, hrow, hreads⟩ := opcodeRow_reads i
  exact decode_of_reads hrow hreads rest

/-- Settles O14: what decodes is an opcode byte and its row's operand bytes, and they are the encoding. -/
theorem encodeOfDecode : Obligations.EncodeOfDecode := by
  intro bytes i rest h
  obtain ⟨op, row, vs, hrow, hreads, rfl⟩ := decode_eq_ok_iff.mp h
  exact ⟨by rw [hreads.encode_eq hrow], instr_wf i⟩

/-- Settles O15: the number of operand bytes is the row's. -/
theorem decodingIsTotalByOpcode : Obligations.DecodingIsTotalByOpcode := by
  intro op
  cases hrow : opcodeRow op with
  | none => exact .inl (decode_of_no_row hrow)
  | some row =>
    have htwo : row.operandBytes ≤ 2 := by cases row <;> simp [Row.operandBytes]
    refine .inr ⟨row.operandBytes, htwo, fun rest => ⟨fun hle => ?_, decode_truncated hrow⟩⟩
    obtain ⟨i, hreads, hd⟩ := decode_of_length hrow hle
    have henc := hreads.encode_eq hrow
    have hop : i.opcode = op := (List.cons.inj henc).1
    have hlen : i.length = 1 + row.operandBytes := by
      rw [← length_encode, henc, List.length_cons, hreads.length_eq, Nat.add_comm]
    exact ⟨i, hop, hlen, hd⟩

/-- Settles O16: each word is decoded by evaluation. -/
theorem sampleWordsDecode : Obligations.SampleWordsDecode :=
  ⟨rfl, rfl, rfl, rfl, rfl, rfl, rfl, rfl, rfl, rfl⟩

end Sys2Proof.Proofs
end

section
/-!
SUPPORT. One step of an unfaulted core: the fetch, then the instruction or the latched error, and the value returned.
-/

namespace Sys2Proof.Proofs

open Sys2Proof.Machine Sys2Proof.Claims

/-! ### Fetching -/

theorem fetchInstr_of_read_error {s : State} {e : CoreError} (h : s.mem.read s.pc = .error e) :
    s.fetchInstr = .error (e, s) := by
  simp [State.fetchInstr, State.fetchByte_error h]

theorem fetchInstr_of_no_row {s : State} {op : Byte} (h : s.mem.read s.pc = .ok op) (hrow : opcodeRow op = none) :
    s.fetchInstr = .error (.unsupportedOpcode op, s.setPc (s.pc + 1#16)) := by
  simp [State.fetchInstr, State.fetchByte_ok h, hrow]

/-- Settles O17: the laws of the fetches, for one byte and for two. -/
theorem fetchesAdvancePcByteByByte : Obligations.FetchesAdvancePcByteByByte := by
  refine fun s => ⟨fun v hv => State.fetchByte_ok hv, fun e he => ?_, fun lo hi hlo hhi => ⟨?_, fun op mk hrow => ?_⟩⟩
  · exact ⟨(Memory.read_error he).1, State.fetchByte_error he,
      fun hf => step_of_fetchInstr_error hf (fetchInstr_of_read_error he)⟩
  · have hat : holdsAt s.mem s.pc [lo, hi] = true := holdsAt_cons.mpr ⟨hlo, holdsAt_cons.mpr ⟨hhi, rfl⟩⟩
    exact State.fetchBytes_of_holdsAt hat
  · exact decode_of_reads hrow (.f2 mk lo hi) []

/-- Settles O18: the bytes are fetched as the instruction they decode to. -/
theorem stepRunsTheDecodedInstruction : Obligations.StepRunsTheDecodedInstruction :=
  fun _ _ _ _ hf hat hd _ => step_of_fetchInstr_ok hf (State.fetchInstr_of_decode hat hd)

/-! ### The value a step returns -/

theorem stepReturn_of_next {s t : State} (h : step s = .next t) : stepReturn s = some (t.returns s.cyclesAtPc) := by
  simp [stepReturn, h]

theorem returns_of_clear {t : State} (h : t.fault = none) (n : Nat) : t.returns n = .ok n := by
  simp [State.returns, h]

theorem returns_of_latched {t : State} {e : CoreError} (h : t.fault = some e) (n : Nat) : t.returns n = .err e := by
  simp [State.returns, h]

theorem cyclesAtPc_of_fetchInstr {s t : State} {i : Instr} (h : s.fetchInstr = .ok (i, t)) :
    s.cyclesAtPc = i.cycles := by
  simp [State.cyclesAtPc, h]

theorem cycles_bounds (i : Instr) : 1 ≤ i.cycles ∧ i.cycles ≤ 5 := by
  unfold Instr.cycles
  split <;> decide

/-- A step that left the latch clear fetched an instruction. -/
theorem fetchInstr_of_step_clear {s t : State} (h : step s = .next t) (hf : t.fault = none) :
    ∃ i u, s.fetchInstr = .ok (i, u) := by
  obtain ⟨-, ⟨i, u, hfetch, -⟩ | ⟨e, u, -, rfl⟩⟩ := step_cases h
  · exact ⟨i, u, hfetch⟩
  · simp at hf

/-- An unfaulted core answers a next state, whether the fetch succeeds or not. -/
theorem step_answers {s : State} (hf : s.fault = none) : ∃ t, step s = .next t := by
  cases hfetch : s.fetchInstr with
  | ok p =>
    obtain ⟨i, u⟩ := p
    obtain ⟨t, ht, -⟩ := exec_answers i u
    exact ⟨t, (step_of_fetchInstr_ok hf hfetch).trans ht⟩
  | error p =>
    obtain ⟨e, u⟩ := p
    exact ⟨u.latch e, step_of_fetchInstr_error hf hfetch⟩

/-- Settles O21: the cycles of a successful step are those of the instruction fetched. -/
theorem unfaultedCoreAlwaysSteps : Obligations.UnfaultedCoreAlwaysSteps := by
  intro s hf
  obtain ⟨t, ht⟩ := step_answers hf
  refine ⟨t, ht, fun hclear => ?_, fun e he => ?_⟩
  · obtain ⟨i, u, hfetch⟩ := fetchInstr_of_step_clear ht hclear
    refine ⟨i.cycles, ?_, cycles_bounds i⟩
    rw [stepReturn_of_next ht, returns_of_clear hclear, cyclesAtPc_of_fetchInstr hfetch]
  · rw [stepReturn_of_next ht, returns_of_latched he]

/-! ### Unsupported opcodes -/

/-- A byte has no row in a table exactly when it is no key of it. -/
theorem findRow_eq_none_iff {table : List (Byte × Row)} {op : Byte} :
    findRow table op = none ↔ op ∉ table.map Prod.fst := by
  induction table with
  | nil => simp [findRow]
  | cons cell rest ih =>
    obtain ⟨k, row⟩ := cell
    by_cases hk : op = k <;> simp [findRow, hk, ih]

/-- All opcode bytes, in rising order. -/
def allBytes : List Byte := (List.range 256).map (BitVec.ofNat 8)

theorem mem_allBytes (op : Byte) : op ∈ allBytes :=
  List.mem_map.mpr ⟨op.toNat, List.mem_range.mpr op.isLt, BitVec.eq_of_toNat_eq (by simp)⟩

/-- The bytes of the patterns of R79 are the keys of R80, in the same order. -/
theorem filter_admitted_allBytes : allBytes.filter admitted = opcodeTable.map Prod.fst := by
  decide +kernel

theorem admitted_eq_false_iff (op : Byte) : admitted op = false ↔ opcodeRow op = none := by
  rw [opcodeRow, findRow_eq_none_iff, ← filter_admitted_allBytes]
  simp [mem_allBytes]

/-- All bytes but the 101 keys. -/
theorem countP_not_admitted : (List.range 256).countP (fun n => !admitted (BitVec.ofNat 8 n)) = 155 := by
  have hkeys : (List.range 256).countP (fun n => admitted (BitVec.ofNat 8 n)) = 101 := by
    have h := congrArg List.length filter_admitted_allBytes
    rwa [← List.countP_eq_length_filter, allBytes, List.countP_map] at h
  have hall := List.length_eq_countP_add_countP (fun n => admitted (BitVec.ofNat 8 n)) (l := List.range 256)
  simp only [List.length_range, hkeys, Bool.not_eq_true, Bool.decide_eq_false] at hall
  omega

/-- Settles O19: the rows are those of the admitted bytes, and the fetch fails behind an opcode without one. -/
theorem unsupportedOpcodeLatchesAfterItsFetch : Obligations.UnsupportedOpcodeLatchesAfterItsFetch := by
  refine ⟨countP_not_admitted, admitted_eq_false_iff, fun s op hf hread hop => ?_⟩
  have hstep := step_of_fetchInstr_error hf (fetchInstr_of_no_row hread ((admitted_eq_false_iff op).mp hop))
  exact ⟨hstep, by rw [stepReturn_of_next hstep, returns_of_latched rfl]⟩

/-! ### Cycles by opcode -/

/-- The cycles of a row, read off the instruction it makes of zero operand bytes. -/
def rowCycles : Row → Nat
  | .f0 i => i.cycles
  | .f1 mk => (mk 0#8).cycles
  | .f2 mk => (mk 0#16).cycles

/-- An instruction's cycles are its row's, whatever its operand (spec/30_encoding.md R80). -/
theorem map_rowCycles_opcodeRow (i : Instr) : (opcodeRow i.opcode).map rowCycles = some i.cycles := by
  cases i <;> rfl

/-- A step that returns `Ok(n)` left the latch clear, and `n` is the cycles of the instruction at `pc`. -/
theorem step_of_stepReturn_ok {s : State} {n : Nat} (h : stepReturn s = some (.ok n)) :
    ∃ t, step s = .next t ∧ t.fault = none ∧ s.cyclesAtPc = n := by
  cases hstep : step s with
  | next t =>
    rw [stepReturn_of_next hstep] at h
    cases hf : t.fault with
    | none => simpa [returns_of_clear hf, hf] using h
    | some e => simp [returns_of_latched hf] at h
  | fault r => cases r; simp [stepReturn, hstep] at h
  | refused r => simp [stepReturn, hstep] at h

/-- The opcode at `pc` is that of an instruction with the cycles returned. -/
theorem opcode_at_pc_of_stepReturn_ok {s : State} {op : Byte} {n : Nat} (hread : s.mem.read s.pc = .ok op)
    (h : stepReturn s = some (.ok n)) : ∃ i : Instr, i.opcode = op ∧ i.cycles = n := by
  obtain ⟨t, hstep, hclear, hn⟩ := step_of_stepReturn_ok h
  obtain ⟨i, u, hfetch⟩ := fetchInstr_of_step_clear hstep hclear
  have hop : s.mem.read s.pc = .ok i.opcode := (holdsAt_cons.mp (State.fetchInstr_ok_frame hfetch).1).1
  exact ⟨i, Except.ok.inj (hop.symm.trans hread), (cyclesAtPc_of_fetchInstr hfetch).symm.trans hn⟩

/-- Settles O23: both steps fetch instructions of one opcode, whose row fixes the cycles. -/
theorem cyclesDependOnTheOpcodeAlone : Obligations.CyclesDependOnTheOpcodeAlone := by
  intro s s' op n n' hread hread' h h'
  obtain ⟨i, rfl, rfl⟩ := opcode_at_pc_of_stepReturn_ok hread h
  obtain ⟨j, hop, rfl⟩ := opcode_at_pc_of_stepReturn_ok hread' h'
  have hrows := map_rowCycles_opcodeRow j
  rw [hop, map_rowCycles_opcodeRow i] at hrows
  exact Option.some.inj hrows

end Sys2Proof.Proofs
end

section
/-!
SUPPORT. The shapes the per-instruction statements have, each established once: which bytes run an instruction, and what
a one-byte access at an address does.
-/

namespace Sys2Proof.Proofs

open Sys2Proof.Machine Sys2Proof.Claims

/-! ### Which bytes run an instruction -/

/-- Every instruction runs from its encoding and returns its row's cycles (spec/30_encoding.md R71). -/
theorem runsFrom_encode (i : Instr) : RunsFrom i (encode i) i.cycles := by
  have hd : decode (encode i) = .ok (i, []) := by
    rw [← List.append_nil (encode i)]
    exact decodeOfEncode i [] (instr_wf i)
  refine ⟨fun s hf hat => ?_, fun s k e hf hk hat he => ?_⟩
  · have hfetch := State.fetchInstr_of_decode hat hd
    refine ⟨step_of_fetchInstr_ok hf hfetch, fun t ht => ?_⟩
    rw [stepReturn_of_next ht, cyclesAtPc_of_fetchInstr hfetch]
  · have hstep := step_of_fetchInstr_error hf (State.fetchInstr_error_of_decode hd hk hat he)
    exact ⟨hstep, by rw [stepReturn_of_next hstep, returns_of_latched rfl]⟩

theorem runsFrom_of_encode_eq {i : Instr} {bytes : List Byte} {n : Nat} (hbytes : encode i = bytes)
    (hcycles : i.cycles = n) : RunsFrom i bytes n :=
  hbytes ▸ hcycles ▸ runsFrom_encode i

/-! ### What a one-byte access does -/

section

variable {i : Instr} {s : State} {addr : State → Word} {a : Word}

/-- A meaning that reads one byte and then answers a next state loads from that address. -/
theorem loadsFrom_of_exec_eq_readThen {after : State → Byte → State}
    (h : ∀ s, exec i s = s.readThen (addr s) fun v => .next (after s v)) : LoadsFrom i addr after := fun s =>
  ⟨fun _ hv => (h s).trans (State.readThen_ok _ hv), fun _ he => (h s).trans (State.readThen_error _ he)⟩

/-- A meaning that writes one byte and then answers a next state stores to that address. -/
theorem storesTo_of_exec_eq_writeThen {value : State → Byte} {after : State → State}
    (h : ∀ s, exec i s = s.writeThen (addr s) (value s) fun t => .next (after t)) : StoresTo i addr value after :=
  fun s =>
    ⟨fun _ hm => (h s).trans (State.writeThen_ok _ hm), fun _ he => (h s).trans (State.writeThen_error _ he)⟩

theorem exec_of_loadsFrom_ok {after : State → Byte → State} {v : Byte} (h : LoadsFrom i addr after)
    (ha : addr s = a) (hread : s.mem.read a = .ok v) : exec i s = .next (after s v) :=
  (h s).1 v (ha ▸ hread)

theorem exec_of_loadsFrom_error {after : State → Byte → State} {e : CoreError} (h : LoadsFrom i addr after)
    (ha : addr s = a) (hread : s.mem.read a = .error e) : exec i s = .next (s.latch e) :=
  (h s).2 e (ha ▸ hread)

theorem exec_of_storesTo_ok {value : State → Byte} {after : State → State} {m : Memory}
    (h : StoresTo i addr value after) (ha : addr s = a) (hwrite : s.mem.write a (value s) = .ok m) :
    exec i s = .next (after (s.setMem m)) :=
  (h s).1 m (ha ▸ hwrite)

theorem exec_of_storesTo_error {value : State → Byte} {after : State → State} {e : CoreError}
    (h : StoresTo i addr value after) (ha : addr s = a) (hwrite : s.mem.write a (value s) = .error e) :
    exec i s = .next (s.latch e) :=
  (h s).2 e (ha ▸ hwrite)

end

/-! ### The port-style addresses (spec/30_encoding.md R76) -/

theorem portAddress_eq_or (v : Byte) : portAddress v = 0xFF00#16 ||| v.setWidth 16 :=
  BitVec.append_def 0xFF#8 v

theorem toNat_portAddress (v : Byte) : (portAddress v).toNat = 0xFF00 + v.toNat :=
  (BitVec.toNat_append 0xFF#8 v).trans (Nat.shiftLeft_add_eq_or_of_lt v.isLt 0xFF).symm

section

variable {s : State} {v : Byte}

theorem route_portAddress_absent (kind : AccessKind) (h : v.toNat < 0x80 ∨ v.toNat = 0xFF) :
    route kind (portAddress v) = .unmapped := by
  have hport := toNat_portAddress v
  exact route_absent kind (by omega)

theorem route_portAddress_hram (kind : AccessKind) (h : 0x80 ≤ v.toNat ∧ v.toNat ≤ 0xFE) :
    route kind (portAddress v) = .cell .hram (v.toNat - 0x80) := by
  have hport := toNat_portAddress v
  rw [route_hram kind (by omega) (by omega), show (portAddress v).toNat - 0xFF80 = v.toNat - 0x80 by omega]

theorem load_portAddress_absent (dst : Reg8) (h : v.toNat < 0x80 ∨ v.toNat = 0xFF) :
    s.load dst (portAddress v) = .next (s.latch (.invalidAddress (0xFF00#16 ||| v.setWidth 16) .read)) := by
  rw [← portAddress_eq_or]
  exact State.readThen_error _ (Memory.read_of_unmapped (route_portAddress_absent .read h))

theorem load_portAddress_hram (dst : Reg8) (h : 0x80 ≤ v.toNat ∧ v.toNat ≤ 0xFE) :
    s.load dst (portAddress v) = .next (s.setReg dst (s.mem.hram.get (v.toNat - 0x80))) :=
  State.readThen_ok _ (read_of_route_ram (route_portAddress_hram .read h) (by decide))

theorem store_portAddress_absent (x : Byte) (h : v.toNat < 0x80 ∨ v.toNat = 0xFF) :
    s.store (portAddress v) x = .next (s.latch (.invalidAddress (0xFF00#16 ||| v.setWidth 16) .write)) := by
  rw [← portAddress_eq_or]
  exact State.writeThen_error _ (Memory.write_of_unmapped x (route_portAddress_absent .write h))

theorem store_portAddress_hram (x : Byte) (h : 0x80 ≤ v.toNat ∧ v.toNat ≤ 0xFE) :
    s.store (portAddress v) x =
      .next (s.setMem { s.mem with hram := s.mem.hram.set (v.toNat - 0x80) x }) := by
  have hroute := route_portAddress_hram .write h
  exact State.writeThen_ok _ (Memory.write_of_route x hroute (route_index_lt s.mem hroute (by decide)))

end

end Sys2Proof.Proofs
end

section
/-!
SUPPORT. The 8-bit loads and stores (spec/40_loads8.md): each statement is which bytes run the instruction, the access
that is its meaning, and the corners the rule names.
-/

namespace Sys2Proof.Proofs

open Sys2Proof.Machine Sys2Proof.Claims

/-! ### The instruction families by operand -/

section

variable (dst src : Reg8) (n : Byte) (s : State)

theorem encode_moveInstr :
    encode (moveInstr dst src) = [BitVec.ofNat 8 (0x40 + 8 * code8 dst + code8 src)] := by
  cases dst <;> cases src <;> rfl

theorem cycles_moveInstr : (moveInstr dst src).cycles = 1 := by cases dst <;> cases src <;> rfl

theorem exec_moveInstr : exec (moveInstr dst src) s = .next (s.setReg dst (s.reg src)) := by
  cases dst <;> cases src <;> rfl

theorem encode_loadImmInstr : encode (loadImmInstr dst n) = [BitVec.ofNat 8 (0x06 + 8 * code8 dst), n] := by
  cases dst <;> rfl

theorem cycles_loadImmInstr : (loadImmInstr dst n).cycles = 2 := by cases dst <;> rfl

theorem exec_loadImmInstr : exec (loadImmInstr dst n) s = .next (s.setReg dst n) := by cases dst <;> rfl

theorem encode_loadHlInstr : encode (loadHlInstr dst) = [BitVec.ofNat 8 (0x46 + 8 * code8 dst)] := by
  cases dst <;> rfl

theorem cycles_loadHlInstr : (loadHlInstr dst).cycles = 2 := by cases dst <;> rfl

theorem exec_loadHlInstr : exec (loadHlInstr dst) s = s.load dst (s.pair .hl) := by cases dst <;> rfl

theorem encode_storeHlInstr : encode (storeHlInstr src) = [BitVec.ofNat 8 (0x70 + code8 src)] := by
  cases src <;> rfl

theorem cycles_storeHlInstr : (storeHlInstr src).cycles = 2 := by cases src <;> rfl

theorem exec_storeHlInstr : exec (storeHlInstr src) s = s.store (s.pair .hl) (s.reg src) := by cases src <;> rfl

theorem setReg_reg_self (r : Reg8) : s.setReg r (s.reg r) = s := by cases r <;> rfl

end

/-! ### Registers and immediates (R100, R101) -/

/-- Settles O32: a register set to its own value is the state itself. -/
theorem moveCopiesRegister : Obligations.MoveCopiesRegister := by
  refine fun dst src => ⟨runsFrom_of_encode_eq (encode_moveInstr dst src) (cycles_moveInstr dst src), fun s =>
    ⟨exec_moveInstr dst src s, ?_⟩⟩
  rintro rfl
  rw [exec_moveInstr, setReg_reg_self]

/-- Settles O33: the failed operand fetch is a clause of `RunsFrom`. -/
theorem loadImmediateSetsRegister : Obligations.LoadImmediateSetsRegister := fun dst n =>
  ⟨runsFrom_of_encode_eq (encode_loadImmInstr dst n) (cycles_loadImmInstr dst n), exec_loadImmInstr dst n⟩

/-! ### Memory at `hl` (R102-R104) -/

/-- Settles O34: the meaning is one write at `hl`. -/
theorem storeImmediateAtHl : Obligations.StoreImmediateAtHl := fun n =>
  ⟨runsFrom_encode (.ldAtHlN8 n), storesTo_of_exec_eq_writeThen (exec_ldAtHlN8 · n)⟩

/-- Settles O35: the address is computed before the register is set, so `h` and `l` load from the old `hl`. -/
theorem loadRegisterFromHl : Obligations.LoadRegisterFromHl := fun dst =>
  ⟨runsFrom_of_encode_eq (encode_loadHlInstr dst) (cycles_loadHlInstr dst),
    loadsFrom_of_exec_eq_readThen (exec_loadHlInstr dst)⟩

/-- Settles O36: the corner registers are the bytes of `hl`, and 0x76 is no admitted byte. -/
theorem storeRegisterAtHl : Obligations.StoreRegisterAtHl := by
  refine ⟨fun src => ⟨runsFrom_of_encode_eq (encode_storeHlInstr src) (cycles_storeHlInstr src),
    storesTo_of_exec_eq_writeThen (exec_storeHlInstr src)⟩, fun s => ?_, (admitted_eq_false_iff 0x76#8).mp rfl⟩
  exact ⟨(hi8_cat16 s.h s.l).symm, (lo8_cat16 s.h s.l).symm⟩

/-! ### The accumulator at `bc` and `de` (R105-R108) -/

/-- Settles O37: each meaning is one read at the pair. -/
theorem loadAccumulatorAtBcAndDe : Obligations.LoadAccumulatorAtBcAndDe :=
  ⟨runsFrom_encode .ldAAtBc, loadsFrom_of_exec_eq_readThen exec_ldAAtBc,
    runsFrom_encode .ldAAtDe, loadsFrom_of_exec_eq_readThen exec_ldAAtDe⟩

/-- Settles O38: each meaning is one write at the pair, and 0xE000 is the first address of the echo range. -/
theorem storeAccumulatorAtBcAndDe : Obligations.StoreAccumulatorAtBcAndDe := by
  have hde : StoresTo .ldAtDeA (fun s => s.pair .de) (fun s => s.a) (fun t => t) :=
    storesTo_of_exec_eq_writeThen exec_ldAtDeA
  refine ⟨runsFrom_encode .ldAtBcA, storesTo_of_exec_eq_writeThen exec_ldAtBcA, runsFrom_encode .ldAtDeA, hde,
    fun s h => exec_of_storesTo_error hde h ?_⟩
  exact Memory.write_of_prohibited s.a (route_echo_write (by decide) (by decide))

/-! ### The accumulator at an absolute address (R109, R110) -/

/-- Settles O39: the encoding holds the address low byte first. -/
theorem loadAccumulatorAbsolute : Obligations.LoadAccumulatorAbsolute := fun n =>
  ⟨runsFrom_encode (.ldAAtA16 n), loadsFrom_of_exec_eq_readThen (exec_ldAAtA16 · n)⟩

/-- Settles O40: no store answers the last address. -/
theorem storeAccumulatorAbsolute : Obligations.StoreAccumulatorAbsolute := by
  have hstore : ∀ n, StoresTo (.ldAtA16A n) (fun _ => n) (fun s => s.a) (fun t => t) := fun n =>
    storesTo_of_exec_eq_writeThen (exec_ldAtA16A · n)
  refine ⟨fun n => ⟨runsFrom_encode (.ldAtA16A n), hstore n⟩, fun s =>
    exec_of_storesTo_error (hstore 0xFFFF#16) rfl ?_⟩
  exact Memory.write_of_unmapped s.a (route_last .write rfl)

/-! ### Port-style accesses (R111-R114) -/

/-- Settles O41: the meaning is a load at the port address of `c`. -/
theorem portLoadByC : Obligations.PortLoadByC := by
  refine ⟨runsFrom_encode .ldhAAtC, fun s => ?_⟩
  rw [exec_ldhAAtC s]
  exact ⟨load_portAddress_absent .a, load_portAddress_hram .a⟩

/-- Settles O42: the meaning is a store at the port address of `c`. -/
theorem portStoreByC : Obligations.PortStoreByC := by
  refine ⟨runsFrom_encode .ldhAtCA, fun s => ?_⟩
  rw [exec_ldhAtCA s]
  exact ⟨store_portAddress_absent s.a, store_portAddress_hram s.a⟩

/-- Settles O43: the meaning is a load at the port address of the immediate. -/
theorem portLoadByImmediate : Obligations.PortLoadByImmediate := by
  refine fun n => ⟨runsFrom_encode (.ldhAAtA8 n), fun s => ?_⟩
  rw [exec_ldhAAtA8 s n]
  exact ⟨load_portAddress_absent .a, load_portAddress_hram .a⟩

/-- Settles O44: the meaning is a store at the port address of the immediate. -/
theorem portStoreByImmediate : Obligations.PortStoreByImmediate := by
  refine fun n => ⟨runsFrom_encode (.ldhAtA8A n), fun s => ?_⟩
  rw [exec_ldhAtA8A s n]
  exact ⟨store_portAddress_absent s.a, store_portAddress_hram s.a⟩

/-! ### `hl` moved after the access (R115-R118) -/

/-- Settles O45: the step of `hl` follows the write, and no store answers the last address. -/
theorem storeAndIncrementHl : Obligations.StoreAndIncrementHl := by
  have hstore : StoresTo .ldAtHlIncA (fun s => s.pair .hl) (fun s => s.a)
      (fun t => t.setPair .hl (t.pair .hl + 1#16)) := storesTo_of_exec_eq_writeThen exec_ldAtHlIncA
  refine ⟨runsFrom_encode .ldAtHlIncA, hstore, fun s h => exec_of_storesTo_error hstore h ?_⟩
  exact Memory.write_of_unmapped s.a (route_last .write rfl)

/-- Settles O46: the accumulator is no part of `hl`, so the step starts from the old `hl`. -/
theorem loadAndIncrementHl : Obligations.LoadAndIncrementHl := by
  have hload : LoadsFrom .ldAAtHlInc (fun s => s.pair .hl)
      (fun s v => (s.setReg .a v).setPair .hl (s.pair .hl + 1#16)) := loadsFrom_of_exec_eq_readThen exec_ldAAtHlInc
  refine ⟨runsFrom_encode .ldAAtHlInc, hload, fun s h => exec_of_loadsFrom_error hload h ?_⟩
  exact Memory.read_of_unmapped (route_last .read rfl)

/-- Settles O47: address zero is the cartridge's first byte, if it has one. -/
theorem storeAndDecrementHl : Obligations.StoreAndDecrementHl := by
  have hstore : StoresTo .ldAtHlDecA (fun s => s.pair .hl) (fun s => s.a)
      (fun t => t.setPair .hl (t.pair .hl - 1#16)) := storesTo_of_exec_eq_writeThen exec_ldAtHlDecA
  have hroute : route .write 0x0000#16 = .cell .cart 0 := route_rom .write (by decide)
  refine ⟨runsFrom_encode .ldAtHlDecA, hstore, fun s h => ⟨fun hlen => ?_, fun hlen => ?_⟩⟩
  · rw [exec_of_storesTo_ok hstore h (Memory.write_of_route s.a hroute hlen), State.pair_setMem, h]
    rfl
  · exact exec_of_storesTo_error hstore h (Memory.write_of_cart_end s.a hroute (Nat.le_of_eq hlen))

/-- Settles O48: address zero is the cartridge's first byte, and zero less one is 0xFFFF. -/
theorem loadAndDecrementHl : Obligations.LoadAndDecrementHl := by
  have hload : LoadsFrom .ldAAtHlDec (fun s => s.pair .hl)
      (fun s v => (s.setReg .a v).setPair .hl (s.pair .hl - 1#16)) := loadsFrom_of_exec_eq_readThen exec_ldAAtHlDec
  refine ⟨runsFrom_encode .ldAAtHlDec, hload, fun s h hlen => ?_⟩
  have hread := Memory.read_of_route (route_rom .read (addr := 0x0000#16) (by decide)) hlen
  rw [exec_of_loadsFrom_ok hload h hread, h]
  rfl

end Sys2Proof.Proofs
end

section
/-!
SUPPORT. The 16-bit loads (spec/41_loads16.md): each statement is which bytes run the instruction, and what its meaning
answers; the store of `sp` outcome by outcome.
-/

namespace Sys2Proof.Proofs

open Sys2Proof.Machine Sys2Proof.Claims

/-! ### Immediate words (R140) -/

/-- Settles O49: the encoding holds the word low byte first, and the meaning splits it over the pair. -/
theorem loadImmediateWord : Obligations.LoadImmediateWord := fun n =>
  ⟨runsFrom_encode (.ldBcN16 n), runsFrom_encode (.ldDeN16 n), runsFrom_encode (.ldHlN16 n),
    runsFrom_encode (.ldSpN16 n), fun s =>
      ⟨exec_ldBcN16 s n, exec_ldDeN16 s n, exec_ldHlN16 s n, exec_ldSpN16 s n⟩⟩

/-! ### The store of `sp` (R141) -/

/-- Every byte that the table places in a RAM store can be written. -/
theorem write_of_route_ram {m : Memory} {addr : Word} {id : StoreId} {k : Nat} (v : Byte)
    (h : route .write addr = .cell id k) (hid : id ≠ .cart) :
    m.write addr v = .ok (m.setStore id ((m.store id).set k v)) :=
  Memory.write_of_route v h (route_index_lt m h hid)

/-- Settles O50: the outcomes are those of the two writes in turn, and at each corner the router says which write
fails and how. -/
theorem storeStackPointer : Obligations.StoreStackPointer := by
  refine fun n => ⟨runsFrom_encode (.ldAtA16Sp n), fun s => ?_⟩
  have hlast (m : Memory) (v : Byte) : m.write 0xFFFF#16 v = .error (.invalidAddress 0xFFFF#16 .write) :=
    Memory.write_of_unmapped v (route_last .write rfl)
  rw [exec_ldAtA16Sp s n]
  refine ⟨fun _ _ h1 h2 => State.storeWord_ok h1 h2, fun _ h1 => State.storeWord_error_low h1,
    fun _ _ h1 h2 => State.storeWord_error_high h1 h2, ?_, ?_, ?_⟩
  · rintro rfl
    have hroute : route .write 0xDFFF#16 = .cell .wram 0x1FFF := route_wram .write (by decide) (by decide)
    refine State.storeWord_error_high (write_of_route_ram _ hroute (by decide)) ?_
    exact Memory.write_of_prohibited _ (route_echo_write (addr := 0xE000#16) (by decide) (by decide))
  · rintro rfl
    have hroute : route .write 0xFFFE#16 = .cell .hram 0x7E := route_hram .write (by decide) (by decide)
    exact State.storeWord_error_high (write_of_route_ram _ hroute (by decide)) (hlast _ _)
  · rintro rfl
    exact State.storeWord_error_low (hlast _ _)

/-! ### The transfer of `hl` (R142) -/

/-- Settles O51: the meaning sets `sp` to the pair view and touches no memory. -/
theorem transferHlToSp : Obligations.TransferHlToSp :=
  ⟨runsFrom_encode .ldSpHl, exec_ldSpHl⟩

end Sys2Proof.Proofs
end

section
/-!
SUPPORT. The stack operations (spec/42_stack.md): a PUSH is its two writes and a POP its two reads, for every pair, and
a POP reads back the bytes of the PUSH before it.
-/

namespace Sys2Proof.Proofs

open Sys2Proof.Machine Sys2Proof.Claims

/-! ### The instruction families by pair -/

section

variable (p : Pair) (s : State)

theorem encode_pushInstr : encode (pushInstr p) = [BitVec.ofNat 8 (0xC5 + 16 * codeQq p)] := by cases p <;> rfl

theorem cycles_pushInstr : (pushInstr p).cycles = 4 := by cases p <;> rfl

theorem exec_pushInstr : exec (pushInstr p) s = s.push (s.pair p) := by cases p <;> rfl

theorem targets_pushInstr : targets s (pushInstr p) = [s.sp - 1#16, s.sp - 2#16] := by cases p <;> rfl

theorem storedBytes_pushInstr : storedBytes s (pushInstr p) = [hi8 (s.pair p), lo8 (s.pair p)] := by
  rw [storedBytes_eq_form]
  cases p <;> rfl

theorem encode_popInstr : encode (popInstr p) = [BitVec.ofNat 8 (0xC1 + 16 * codeQq p)] := by cases p <;> rfl

theorem cycles_popInstr : (popInstr p).cycles = 3 := by cases p <;> rfl

theorem exec_popInstr : exec (popInstr p) s = s.pop p := by cases p <;> rfl

end

/-! ### PUSH (R150) -/

/-- A first write that fails whatever the byte leaves `sp` at its address. -/
theorem push_of_write_error {s : State} {a : Word} {e : CoreError} (v : Word) (ha : s.sp - 1#16 = a)
    (he : ∀ x, s.mem.write a x = .error e) : s.push v = .next { s with sp := a, fault := some e } := by
  subst ha
  exact State.push_error_high (he (hi8 v))

/-- Settles O52: the outcomes are those of the two writes in turn, and at each corner the router refuses the first. -/
theorem pushStoresHighThenLow : Obligations.PushStoresHighThenLow := by
  refine fun p => ⟨runsFrom_of_encode_eq (encode_pushInstr p) (cycles_pushInstr p), fun s => ?_⟩
  rw [exec_pushInstr p s]
  refine ⟨fun _ _ h1 h2 => State.push_ok h1 h2, fun _ h1 => State.push_error_high h1,
    fun _ _ h1 h2 => State.push_error_low h1 h2, fun h => ?_, fun h => ?_, fun h => ?_⟩
  · refine push_of_write_error _ (by rw [h]; rfl) fun x => Memory.write_of_unmapped x ?_
    exact route_last .write rfl
  · refine push_of_write_error _ (by rw [h]; rfl) fun x => Memory.write_of_unmapped x ?_
    exact route_io .write (by decide) (by decide)
  · refine push_of_write_error _ (by rw [h]; rfl) fun x => Memory.write_of_prohibited x ?_
    exact route_echo_write (by decide) (by decide)

/-! ### POP (R151, R152) -/

/-- The last address holds no byte. -/
theorem read_last (m : Memory) : m.read 0xFFFF#16 = .error (.invalidAddress 0xFFFF#16 .read) :=
  Memory.read_of_unmapped (route_last .read rfl)

/-- From 0xFFFE a POP reads the last byte of HRAM and fails at the address after it. -/
theorem pop_of_sp_fffe {s : State} (p : Pair) (h : s.sp = 0xFFFE#16) :
    s.pop p = .next { s with sp := 0xFFFF#16, fault := some (.invalidAddress 0xFFFF#16 .read) } := by
  have hnext : s.sp + 1#16 = 0xFFFF#16 := by rw [h]; rfl
  have hlow : s.mem.read s.sp = .ok (s.mem.hram.get 0x7E) := by
    rw [h]
    exact read_of_route_ram (route_hram .read (by decide) (by decide)) (by decide)
  have hhigh := hnext ▸ read_last s.mem
  rw [State.pop_error_high hlow hhigh, hnext]

/-- Settles O53: the outcomes are those of the two reads in turn, whatever the pair. -/
theorem popLoadsLowThenHigh : Obligations.PopLoadsLowThenHigh := by
  refine fun p _ => ⟨runsFrom_of_encode_eq (encode_popInstr p) (cycles_popInstr p), fun s => ?_⟩
  rw [exec_popInstr p s]
  exact ⟨fun _ _ h1 h2 => State.pop_ok h1 h2, fun _ h1 => State.pop_error_low h1,
    fun _ _ h1 h2 => State.pop_error_high h1 h2, pop_of_sp_fffe p,
    fun h => State.pop_error_low (h ▸ read_last s.mem)⟩

/-- The mask of the flag byte keeps its upper four bits. -/
theorem getLsbD_maskFlags (v : Byte) {i : Nat} (h : 4 ≤ i ∧ i < 8) : (maskFlags v).getLsbD i = v.getLsbD i := by
  have hmask : (0xF0#8).getLsbD i = true := by
    have hi : i = 4 ∨ i = 5 ∨ i = 6 ∨ i = 7 := by omega
    rcases hi with rfl | rfl | rfl | rfl <;> rfl
  rw [maskFlags, BitVec.getLsbD_and, hmask, Bool.and_true]

/-- Setting AF to two bytes sets `a` to the high one and `f` to the low one masked. -/
theorem setPair_af_cat16 (s : State) (hi lo : Byte) :
    s.setPair .af (cat16 hi lo) = { s with a := hi, f := maskFlags lo } := by
  simp only [State.setPair, hi8_cat16, lo8_cat16]

/-- Settles O54: POP AF is the POP of a pair whose setter masks `f`, and R28 lists `f` as written by it alone. -/
theorem popAfLoadsAccumulatorAndFlags : Obligations.PopAfLoadsAccumulatorAndFlags := by
  refine ⟨runsFrom_encode .popAf, fun s => ?_, fun _ _ _ hi h => exec_f_of_ne_popAf hi h⟩
  rw [exec_popAf s]
  refine ⟨fun lo hi h1 h2 => ?_, fun _ h1 => State.pop_error_low h1, fun _ _ h1 h2 => State.pop_error_high h1 h2⟩
  refine ⟨{ s with a := hi, f := maskFlags lo, sp := s.sp + 2#16 }, ?_, rfl, ?_⟩
  · rw [State.pop_ok h1 h2, setPair_af_cat16]
  · exact ⟨getLsbD_maskFlags lo (by decide), getLsbD_maskFlags lo (by decide), getLsbD_maskFlags lo (by decide),
      getLsbD_maskFlags lo (by decide), maskFlags_low_nibble lo⟩

/-! ### POP after PUSH (T12) -/

section

variable {p : Pair} {s t : State}

/-- A PUSH that raises nothing leaves `sp` two lower. -/
theorem sp_of_exec_pushInstr (h : exec (pushInstr p) s = .next t) (hf : t.fault = none) : t.sp = s.sp - 2#16 := by
  rw [exec_pushInstr] at h
  have hpush : Answers (fun t => t.fault = none → t.sp = s.sp - 2#16) (s.push (s.pair p)) :=
    answers_push (fun _ _ _ _ _ => sub_one_sub_one s.sp) (fun _ _ _ => of_latch_unfaulted)
      (fun _ _ _ _ _ => of_latch_unfaulted)
  exact hpush.of_next h hf

/-- A PUSH that raises nothing leaves the low byte at the new `sp` and the high byte after it. -/
theorem read_of_exec_pushInstr (hm : s.mem.wf = true) (h : exec (pushInstr p) s = .next t) (hf : t.fault = none) :
    t.mem.read (s.sp - 2#16) = .ok (lo8 (s.pair p)) ∧ t.mem.read (s.sp - 1#16) = .ok (hi8 (s.pair p)) := by
  have hstores := exec_storesBytes h hf
  have hdistinct := targets_pairwise_unEcho_ne s (pushInstr p)
  rw [targets_pushInstr, storedBytes_pushInstr] at hstores
  rw [targets_pushInstr] at hdistinct
  exact ⟨hstores.read_of_unEcho_eq hm hdistinct (k := 1) rfl rfl rfl,
    hstores.read_of_unEcho_eq hm hdistinct (k := 0) rfl rfl rfl⟩

end

/-- Settles O55: the POP's two reads are at the two addresses the PUSH stored to, and give the value's two bytes. -/
theorem popAfterPushGivesTheValueBack : Obligations.PopAfterPushGivesTheValueBack := by
  intro p q s t hm _ h hf
  have hsp := sp_of_exec_pushInstr h hf
  have hnext : t.sp + 1#16 = s.sp - 1#16 := by rw [hsp]; bv_omega
  have hback : t.sp + 2#16 = s.sp := by rw [hsp, BitVec.sub_add_cancel]
  obtain ⟨hlow, hhigh⟩ := read_of_exec_pushInstr hm h hf
  rw [← hsp] at hlow
  rw [← hnext] at hhigh
  rw [exec_popInstr, State.pop_ok hlow hhigh, hback, cat16_hi8_lo8]

end Sys2Proof.Proofs
end

section
/-!
SUPPORT. The instructions that do nothing beyond the opcode fetch (spec/43_misc.md): NOP and STOP.
-/

namespace Sys2Proof.Proofs

open Sys2Proof.Machine Sys2Proof.Claims

/-- Settles O56: NOP runs from its one byte, and its meaning answers the state it is given. -/
theorem nopChangesNothing : Obligations.NopChangesNothing :=
  ⟨runsFrom_encode .nop, exec_nop⟩

/-- A step over STOP's opcode only moves `pc` past it. -/
theorem step_of_stop {s : State} (hf : s.fault = none) (hop : s.mem.read s.pc = .ok 0x10#8) :
    step s = .next (s.setPc (s.pc + 1#16)) := by
  have hat : holdsAt s.mem s.pc (encode .stop) = true := holdsAt_cons.mpr ⟨hop, rfl⟩
  obtain ⟨hstep, -⟩ := (runsFrom_encode .stop).1 s hf hat
  exact hstep.trans (exec_stop _)

/-- Settles O57: the step over STOP leaves `pc` at the byte after it, so the next fetch reads that byte. -/
theorem stopIsAOneByteNoOperation : Obligations.StopIsAOneByteNoOperation := by
  refine ⟨runsFrom_encode .stop, exec_stop, fun s v hf hat => ?_⟩
  obtain ⟨hop, htail⟩ := holdsAt_cons.mp hat
  obtain ⟨hv, -⟩ := holdsAt_cons.mp htail
  exact ⟨s.setPc (s.pc + 1#16), step_of_stop hf hop, hf, State.fetchByte_ok hv⟩

end Sys2Proof.Proofs
end

section
/-!
SUPPORT. The errors (spec/60_exceptions.md): what a set latch stops, how a run can end, and which error each instruction
can raise.
-/

namespace Sys2Proof.Proofs

open Sys2Proof.Machine Sys2Proof.Claims

/-! ### A faulted core (R173) -/

theorem step_of_latched {s : State} {e : CoreError} (h : s.fault = some e) : step s = .fault (.latched e) := by
  simp [step, h]

theorem stepReturn_of_latched {s : State} {e : CoreError} (h : s.fault = some e) : stepReturn s = some (.err e) := by
  simp [stepReturn, step_of_latched h]

/-! ### The end of a run (R196) -/

section

variable {stopPc : Word} {steps cycles steps' cycles' fuel : Nat} {s t : State}

theorem runFrom_of_stopped (h : s.pc = stopPc ∧ s.fault = none) :
    runFrom stopPc steps cycles fuel s = .ended s steps cycles := by
  cases fuel <;> exact if_pos h

/-- A run that ends stands at STOP_PC with the latch clear, or takes a step that returned cycles and ends after it. -/
theorem runFrom_ended_cases (h : runFrom stopPc steps cycles fuel s = .ended t steps' cycles') :
    (s.pc = stopPc ∧ s.fault = none ∧ t = s ∧ steps' = steps ∧ cycles' = cycles) ∨
      ∃ k u n, fuel = k + 1 ∧ step s = .next u ∧ u.returns s.cyclesAtPc = .ok n ∧
        runFrom stopPc (steps + 1) (cycles + n) k u = .ended t steps' cycles' := by
  by_cases hstop : s.pc = stopPc ∧ s.fault = none
  · rw [runFrom_of_stopped hstop] at h
    cases h
    exact .inl ⟨hstop.1, hstop.2, rfl, rfl, rfl⟩
  · cases fuel with
    | zero => simp [runFrom, hstop] at h
    | succ k =>
      simp only [runFrom, if_neg hstop] at h
      split at h
      · cases h
      · cases h
      · next u hstep =>
        split at h
        · cases h
        · next n hn => exact .inr ⟨k, u, n, rfl, hstep, hn, h⟩

theorem final_fault_of_runFrom_ended (h : runFrom stopPc steps cycles fuel s = .ended t steps' cycles') :
    t.fault = none := by
  induction fuel generalizing steps cycles s with
  | zero =>
    obtain ⟨-, hf, rfl, -⟩ | ⟨k, _, _, hk, -⟩ := runFrom_ended_cases h
    · exact hf
    · cases hk
  | succ fuel ih =>
    obtain ⟨-, hf, rfl, -⟩ | ⟨k, u, n, hk, -, -, hrun⟩ := runFrom_ended_cases h
    · exact hf
    · cases hk
      exact ih hrun

/-- The first state of a run that ends has the latch clear: a faulted core is at no end and steps to none. -/
theorem launch_fault_of_runFrom_ended (h : runFrom stopPc steps cycles fuel s = .ended t steps' cycles') :
    s.fault = none := by
  obtain ⟨-, hf, -⟩ | ⟨_, _, _, -, hstep, -⟩ := runFrom_ended_cases h
  · exact hf
  · exact (step_cases hstep).1

end

/-- Settles O20: `step` tests the latch first, and both ends of a run that ends have it clear. -/
theorem faultedCoreExecutesNothing : Obligations.FaultedCoreExecutesNothing := by
  refine ⟨fun s e he => ?_, fun _ _ _ _ _ _ h => final_fault_of_runFrom_ended h⟩
  refine ⟨step_of_latched he, stepReturn_of_latched he, fun _ => he, fun _ => rfl, fun _ _ _ _ _ h => ?_⟩
  have hf := launch_fault_of_runFrom_ended h
  simp [he] at hf

/-! ### The errors of the data accesses (R171) -/

/-- The forms that read a byte of data. -/
def Form.readsData : Form → Bool
  | .load _ _ | .loadStep _ | .pop _ => true
  | .idle | .set _ _ | .setPair _ _ | .setSp _ | .store _ _ | .storeStep _ | .storeSp _ | .push _ => false

/-- The forms that store a byte at an address that is not port-style. -/
def Form.mayEcho : Form → Bool
  | .store (.pair _) _ | .store (.imm _) _ | .storeStep _ | .storeSp _ | .push _ => true
  | .store (.port _) _ | .idle | .set _ _ | .setPair _ _ | .setSp _ | .load _ _ | .loadStep _ | .pop _ => false

theorem readsData_eq_form (i : Instr) : readsData i = (formOf i).readsData := by cases i <;> rfl

theorem mayEcho_eq_form (i : Instr) : mayEcho i = (formOf i).mayEcho := by cases i <;> rfl

/-- A form that neither reads nor stores a byte leaves the latch as it was. -/
theorem Form.exec_fault_of_no_access {φ : Form} {s : State} (hr : φ.readsData = false) (ht : φ.targets s = []) :
    Answers (fun t => t.fault = s.fault) (φ.exec s) := by
  cases φ with
  | idle => exact answers_next rfl
  | set dst src => exact answers_next (State.setReg_fault s dst _)
  | setPair p n => exact answers_next (State.setPair_fault s p n)
  | setSp src => exact answers_next rfl
  | load | loadStep | pop => cases hr
  | store | storeStep | storeSp | push => cases ht

/-- The storing forms that R171 denies the echo range store at a port-style address. -/
theorem Form.target_eq_portAddress {φ : Form} {s : State} {a : Word} (ha : a ∈ φ.targets s)
    (he : φ.mayEcho = false) : ∃ v, a = portAddress v := by
  cases φ with
  | store addr src =>
    cases addr with
    | port o => exact ⟨o.value s, List.mem_singleton.mp ha⟩
    | pair | imm => cases he
  | storeStep | storeSp | push => cases he
  | idle | set | setPair | setSp | load | loadStep | pop => cases ha

theorem route_portAddress_ne_prohibited (kind : AccessKind) (v : Byte) : route kind (portAddress v) ≠ .prohibited := by
  by_cases h : v.toNat < 0x80 ∨ v.toNat = 0xFF
  · simp [route_portAddress_absent kind h]
  · have := v.isLt
    simp [route_portAddress_hram kind (v := v) (by omega)]

/-- An instruction whose execution set the latch raised the error at one of its targets, or in a read of data. -/
theorem error_of_exec {i : Instr} {s t : State} {e : CoreError} (hs : s.fault = none) (h : exec i s = .next t)
    (he : t.fault = some e) :
    (∃ a, e = .invalidAddress a .read ∧ readsData i = true) ∨
      ∃ a ∈ targets s i, e = .invalidAddress a .write ∨ (e = .prohibitedAccess a ∧ mayEcho i = true) := by
  obtain ⟨-, raised, hfault, hacc⟩ := exec_frame h
  obtain rfl : raised = some e := by rw [← he, hfault, hs, Option.or_none]
  cases hacc with
  | readRaises a htargets _ hr =>
    refine .inl ⟨a, Option.some.inj hr, eq_true_of_ne_false fun hread => ?_⟩
    rw [readsData_eq_form] at hread
    rw [targets_eq_form] at htargets
    have hkept := (Form.exec_fault_of_no_access hread htargets).of_next ((exec_eq_form i s).symm.trans h)
    simp [he, hs] at hkept
  | stores hst =>
    obtain ⟨a, ha, rfl | rfl⟩ := hst.raised_at
    · exact .inr ⟨a, ha, .inl rfl⟩
    · refine .inr ⟨a, ha, .inr ⟨rfl, eq_true_of_ne_false fun hecho => ?_⟩⟩
      rw [mayEcho_eq_form] at hecho
      rw [targets_eq_form] at ha
      obtain ⟨v, rfl⟩ := Form.target_eq_portAddress ha hecho
      exact route_portAddress_ne_prohibited .write v hst.genuine

/-- Settles O31: the error is one of the three of `error_of_exec`, and each names its column of R171. -/
theorem errorsEachInstructionCanRaise : Obligations.ErrorsEachInstructionCanRaise := by
  intro i s t e hs h he
  obtain ⟨a, rfl, hread⟩ | ⟨a, ha, rfl | ⟨rfl, hecho⟩⟩ := error_of_exec hs h he
  · simp [hread]
  · simp [ha]
  · simp [ha, hecho]

end Sys2Proof.Proofs
end

section
/-!
SUPPORT. Power-on and reset (spec/70_reset_and_hazards.md R190, R192): the first fetch from the cartridge, and what the
host's reset keeps.
-/

namespace Sys2Proof.Proofs

open Sys2Proof.Machine Sys2Proof.Claims

/-! ### Fetching from the cartridge -/

/-- A fetch past the loaded image latches its error and leaves `pc`. -/
theorem step_past_cartridge {s : State} (hf : s.fault = none) (hpc : s.pc.toNat < 0x8000)
    (hlen : s.mem.cartLen ≤ s.pc.toNat) : step s = .next (s.latch (.invalidAddress s.pc .read)) :=
  step_of_fetchInstr_error hf (fetchInstr_of_read_error (Memory.read_of_cart_end (route_rom .read hpc) hlen))

/-- A fetch inside a loaded image gives the image's byte. -/
theorem fetchByte_loadImage {s : State} {image : List Byte} {v : Byte} (hpc : s.pc.toNat < 0x8000)
    (hv : image[s.pc.toNat]? = some v) :
    (s.loadImage image).fetchByte = .ok (v, (s.loadImage image).setPc (s.pc + 1#16)) := by
  obtain ⟨hlen, -⟩ := List.getElem?_eq_some_iff.mp hv
  have hread := Memory.read_of_route (m := (s.loadImage image).mem) (route_rom .read hpc) hlen
  exact State.fetchByte_ok (hread.trans (congrArg Except.ok (cart_get_loadImage s hv)))

/-- Settles O4: `pc` is 0x0100 at power-on, before a load and after it: an address of the cartridge's range. -/
theorem firstStepNeedsACartridgePastTheEntry : Obligations.FirstStepNeedsACartridgePastTheEntry := by
  intro ram
  have hpc : (State.powerOn ram).pc.toNat < 0x8000 := show (0x0100#16).toNat < 0x8000 by decide
  exact ⟨step_past_cartridge rfl hpc (Nat.zero_le _), fun image =>
    ⟨fun hlen => step_past_cartridge (s := (State.powerOn ram).loadImage image) rfl hpc hlen,
      fun _ hv => fetchByte_loadImage hpc hv⟩⟩

/-! ### The host's reset (R190) -/

/-- A reset gives every register its power-on value: it differs from power-on in the cartridge alone. -/
@[simp] theorem valueOf_hostReset (s : State) (ram : InitRam) (q : RegName) :
    valueOf (s.hostReset ram) q = valueOf (State.powerOn ram) q := by
  cases q <;> rfl

/-- Settles O2: the registers are those of power-on, and so is every field but the two of the cartridge. -/
theorem hostResetKeepsCartridgeAndClearsLatch : Obligations.HostResetKeepsCartridgeAndClearsLatch := fun s ram =>
  ⟨rfl, rfl, rfl, valueOf_hostReset s ram, rfl, rfl, rfl, rfl, rfl, rfl⟩

end Sys2Proof.Proofs
end

section
/-!
SUPPORT. The end of a run (spec/70_reset_and_hazards.md R196): `runFrom` counts the steps and the cycles of the core.
-/

namespace Sys2Proof.Proofs

open Sys2Proof.Machine Sys2Proof.Claims

/-! ### One step of `core.run` and `totalCycles` -/

section
variable {s t u : State} {n cycles : Nat}

theorem core_run_succ_of_step (h : step s = .next t) (n : Nat) : core.run (n + 1) s = core.run n t := by
  have h' : core.step s = .next t := h
  simp only [Host.Core.run, h']

theorem totalCycles_succ_of_step (h : step s = .next t) (hf : t.fault = none) (n : Nat) :
    totalCycles (n + 1) s = (totalCycles n t).map (s.cyclesAtPc + ·) := by
  simp only [totalCycles, stepReturn_of_next h, returns_of_clear hf, h]

/-- Where the cycles add up, the first step returned its own and those of the others add up. -/
theorem totalCycles_succ_cases (h : totalCycles (n + 1) s = some cycles) :
    ∃ t rest, step s = .next t ∧ t.fault = none ∧ totalCycles n t = some rest ∧ s.cyclesAtPc + rest = cycles := by
  simp only [totalCycles] at h
  split at h
  · next t _ hstep hret =>
    obtain ⟨rest, hrest, hsum⟩ := Option.map_eq_some_iff.mp h
    obtain ⟨t', hstep', hf, rfl⟩ := step_of_stepReturn_ok hret
    cases hstep.symm.trans hstep'
    exact ⟨t, rest, hstep, hf, hrest, hsum⟩
  · cases h

/-- One more successful step at the end of a run adds its cycles. -/
theorem run_totalCycles_snoc (hrun : core.run n s = .next t) (htotal : totalCycles n s = some cycles)
    (hstep : step t = .next u) (hf : u.fault = none) :
    core.run (n + 1) s = .next u ∧ totalCycles (n + 1) s = some (cycles + t.cyclesAtPc) := by
  induction n generalizing s cycles with
  | zero =>
    cases hrun
    cases htotal
    rw [core_run_succ_of_step hstep, totalCycles_succ_of_step hstep hf, Nat.zero_add]
    exact ⟨rfl, rfl⟩
  | succ n ih =>
    obtain ⟨v, rest, hv, hvf, hrest, rfl⟩ := totalCycles_succ_cases htotal
    rw [core_run_succ_of_step hv] at hrun ⊢
    obtain ⟨hrun', htotal'⟩ := ih hrun hrest
    refine ⟨hrun', ?_⟩
    rw [totalCycles_succ_of_step hv hvf, htotal', Option.map_some, Nat.add_assoc]

end

/-! ### The steps a run has made -/

/-- From `s` the core came to `t` in `n` steps that returned `cycles` in all, and stood at no end before `t` (R196). -/
structure Reaches (stopPc : Word) (n cycles : Nat) (s t : State) : Prop where
  run_eq : core.run n s = .next t
  total_eq : totalCycles n s = some cycles
  not_ended : NotEndedBefore stopPc n s

namespace Reaches

variable {stopPc : Word} {n cycles : Nat} {s t u : State}

theorem refl (stopPc : Word) (s : State) : Reaches stopPc 0 0 s s :=
  ⟨rfl, rfl, fun k _ hk => absurd hk k.not_lt_zero⟩

theorem not_ended_succ (h : Reaches stopPc n cycles s t) (hstop : ¬(t.pc = stopPc ∧ t.fault = none)) :
    NotEndedBefore stopPc (n + 1) s := by
  intro k v hk hv
  obtain hlt | rfl := Nat.lt_succ_iff_lt_or_eq.mp hk
  · exact h.not_ended k v hlt hv
  · cases h.run_eq.symm.trans hv
    exact hstop

theorem snoc (h : Reaches stopPc n cycles s t) (hstop : ¬(t.pc = stopPc ∧ t.fault = none)) (hstep : step t = .next u)
    (hf : u.fault = none) : Reaches stopPc (n + 1) (cycles + t.cyclesAtPc) s u :=
  let ⟨hrun, htotal⟩ := run_totalCycles_snoc h.run_eq h.total_eq hstep hf
  ⟨hrun, htotal, h.not_ended_succ hstop⟩

end Reaches

/-! ### `runFrom` on a state that is at no end -/

section
variable {stopPc : Word} {n cycles fuel : Nat} {s t : State} {e : CoreError}

theorem runFrom_of_no_fuel (hstop : ¬(s.pc = stopPc ∧ s.fault = none)) :
    runFrom stopPc n cycles 0 s = .outOfFuel s := if_neg hstop

theorem runFrom_of_latched (h : s.fault = some e) :
    runFrom stopPc n cycles (fuel + 1) s = .faulted e s n cycles := by
  simp [runFrom, h, step_of_latched h]

theorem runFrom_of_step_latched (hstop : ¬(s.pc = stopPc ∧ s.fault = none)) (hstep : step s = .next t)
    (h : t.fault = some e) : runFrom stopPc n cycles (fuel + 1) s = .faulted e t n cycles := by
  simp only [runFrom, if_neg hstop, hstep, returns_of_latched h]

theorem runFrom_of_step_clear (hstop : ¬(s.pc = stopPc ∧ s.fault = none)) (hstep : step s = .next t)
    (h : t.fault = none) :
    runFrom stopPc n cycles (fuel + 1) s = runFrom stopPc (n + 1) (cycles + s.cyclesAtPc) fuel t := by
  simp only [runFrom, if_neg hstop, hstep, returns_of_clear h]

end

/-! ### The ends of R196 -/

/-- What the end of a run from `s` with `fuel` says of the core's steps, for each of the ways it can end (R196). -/
def EndsAs (stopPc : Word) (fuel : Nat) (s : State) : RunEnd → Prop
  | .ended t n cycles => n ≤ fuel ∧ t.pc = stopPc ∧ t.fault = none ∧ Reaches stopPc n cycles s t
  | .faulted e t n cycles =>
    n < fuel ∧ t.fault = some e ∧ ∃ u, Reaches stopPc n cycles s u ∧ ¬(u.pc = stopPc ∧ u.fault = none) ∧
      stepReturn u = some (.err e) ∧ (step u = .next t ∨ (step u = .fault (.latched e) ∧ t = u))
  | .outOfFuel t => ¬(t.pc = stopPc ∧ t.fault = none) ∧ ∃ cycles, Reaches stopPc fuel cycles s t
  | .refused _ => False

theorem endsAs_of_stopped {stopPc : Word} {n cycles : Nat} {s t : State} (h : Reaches stopPc n cycles s t) (fuel : Nat)
    (hstop : t.pc = stopPc ∧ t.fault = none) :
    EndsAs stopPc (n + fuel) s (runFrom stopPc n cycles fuel t) := by
  rw [runFrom_of_stopped hstop]
  exact ⟨Nat.le_add_right n fuel, hstop.1, hstop.2, h⟩

/-- The counters of a run are the steps made since its launch and their cycles, so its end is one of R196's. -/
theorem endsAs_runFrom {stopPc : Word} {n cycles fuel : Nat} {s t : State} (h : Reaches stopPc n cycles s t) :
    EndsAs stopPc (n + fuel) s (runFrom stopPc n cycles fuel t) := by
  induction fuel generalizing n cycles t with
  | zero =>
    by_cases hstop : t.pc = stopPc ∧ t.fault = none
    · exact endsAs_of_stopped h 0 hstop
    · rw [runFrom_of_no_fuel hstop]
      exact ⟨hstop, cycles, h⟩
  | succ fuel ih =>
    by_cases hstop : t.pc = stopPc ∧ t.fault = none
    · exact endsAs_of_stopped h (fuel + 1) hstop
    · have hn : n < n + (fuel + 1) := Nat.lt_add_of_pos_right fuel.succ_pos
      cases hf : t.fault with
      | some e =>
        rw [runFrom_of_latched hf]
        exact ⟨hn, hf, t, h, hstop, stepReturn_of_latched hf, .inr ⟨step_of_latched hf, rfl⟩⟩
      | none =>
        obtain ⟨u, hstep⟩ := step_answers hf
        cases hu : u.fault with
        | some e =>
          rw [runFrom_of_step_latched hstop hstep hu]
          exact ⟨hn, hu, t, h, hstop, by rw [stepReturn_of_next hstep, returns_of_latched hu], .inl hstep⟩
        | none =>
          rw [runFrom_of_step_clear hstop hstep hu, Nat.add_comm fuel 1, ← Nat.add_assoc]
          exact ih (h.snoc hstop hstep hu)

theorem endsAs_run (stopPc : Word) (fuel : Nat) (s : State) : EndsAs stopPc fuel s (run stopPc fuel s) := by
  have h := endsAs_runFrom (fuel := fuel) (Reaches.refl stopPc s)
  rwa [Nat.zero_add] at h

/-- Settles O59: each clause is what `EndsAs` says of that way to end. -/
theorem endedRunIsTheStepsOfTheCore : Obligations.EndedRunIsTheStepsOfTheCore := by
  intro stopPc fuel s
  have hend := endsAs_run stopPc fuel s
  refine ⟨fun t n cycles h => ?_, fun e t n cycles h => ?_, fun t h => ?_, fun r h => ?_⟩ <;> rw [h] at hend
  · obtain ⟨hn, hpc, hf, hreach⟩ := hend
    exact ⟨hn, hreach.run_eq, hpc, hf, hreach.total_eq, hreach.not_ended⟩
  · obtain ⟨hn, hf, u, hreach, hstop, hret, hstep⟩ := hend
    exact ⟨hn, hreach.total_eq, hreach.not_ended_succ hstop, hf, u, hreach.run_eq, hret, hstep⟩
  · obtain ⟨hstop, cycles, hreach⟩ := hend
    exact ⟨hreach.run_eq, ⟨cycles, hreach.total_eq⟩, hreach.not_ended_succ hstop⟩
  · exact hend

end Sys2Proof.Proofs
end
